-- ==== Sys2Proof/Word.lean ====
section
/-! DEFINITION. The word types of the engine (00_scope.md R7, R8). -/

namespace Sys2Proof

/-- A 64-bit unsigned data value, `u64` (R7). -/
abbrev Word := BitVec 64

/-- An 8-bit byte (R7). -/
abbrev Byte := BitVec 8

end Sys2Proof
end

