-- ==== Sys2Proof/Syntax.lean ====
section
/-! DEFINITION. The commands of the engine, one constructor per row of spec/opcode_table.json
(30_encoding.md R87). Operands are the decoded unsigned fields of R85: a slot index, a MSGBUF offset and a
byte count, in the order of the assembler (R91: slot, offset, length). -/

namespace Sys2Proof

/-- A command (R87). -/
inductive Instr where
  /-- SEEDA: key Variant A from one entropy word (40_seedgen.md R113). -/
  | seeda
  /-- LOADIVA: key Variant A from ARG0, ARG1 (R114). -/
  | loadiva
  /-- SEEDB: key Variant B from the first balanced entropy word (R115). -/
  | seedb
  /-- LOADSECB: key Variant B from ARG0 (R116). -/
  | loadsecb
  /-- NEWA c: a fresh Variant A hasher in slot c (41_bittwidhash.md R139). -/
  | newa (c : Nat)
  /-- WRITEA c, off, len: ingest a MSGBUF slice (R140). -/
  | writea (c off len : Nat)
  /-- FINA c: the Variant A digest (R141). -/
  | fina (c : Nat)
  /-- NEWB c: a fresh Variant B hasher in slot c (42_whyhash.md R169). -/
  | newb (c : Nat)
  /-- WRITEB c, off, len: ingest a MSGBUF slice (R170). -/
  | writeb (c off len : Nat)
  /-- FINB c: the Variant B primary digest (R171). -/
  | finb (c : Nat)
  /-- FIN2B c: the Variant B pair (R172). -/
  | fin2b (c : Nat)
  /-- FIN2A c: the Variant A digest and its extension (43_dualdigest.md R192). -/
  | fin2a (c : Nat)
  /-- DUAL: the mixer on ARG0 (R193). -/
  | dual
  /-- CLRERR: clear the error record (44_control.md R200). -/
  | clrerr
deriving DecidableEq, Repr

end Sys2Proof
end

