-- ==== Sys2Proof/WellFormed.lean ====
section
/-! DEFINITION. Which commands have an encoding: every operand fits its field (30_encoding.md R81; R91: "an
assembler refuses an operand that does not fit its field (CTX > 7, OFF or LEN > 65535)"). Whether the slot
and the slice exist on the instantiation is the engine's own check at issue (60_exceptions.md R213, R214),
not well-formedness. -/

namespace Sys2Proof

/-- CTX is a 3-bit field (R81). -/
def ctxFits (c : Nat) : Bool := decide (c ≤ 7)

/-- OFF is a 16-bit field (R81). -/
def offFits (off : Nat) : Bool := decide (off ≤ 65535)

/-- LEN is a 16-bit field (R81). -/
def lenFits (len : Nat) : Bool := decide (len ≤ 65535)

/-- Every operand of the command fits its field (R91). -/
def Instr.wf : Instr → Bool
  | .seeda | .loadiva | .seedb | .loadsecb | .dual | .clrerr => true
  | .newa c | .fina c | .newb c | .finb c | .fin2b c | .fin2a c => ctxFits c
  | .writea c off len | .writeb c off len => ctxFits c && offFits off && lenFits len

end Sys2Proof
end

