-- ==== Sys2Proof/Decode.lean ====
section
/-! DEFINITION. The decoder (30_encoding.md R88), total on every 64-bit word and rejecting by name, and the
encoder (R92) written from the same opcode map (R87). -/

namespace Sys2Proof

/-- The three command formats (R82 to R84). -/
inductive Format where
  /-- no operand field (R82) -/
  | n
  /-- a context slot (R83) -/
  | c
  /-- slot, slice length and slice offset (R84) -/
  | w
deriving DecidableEq, Repr

/-- The rows of the opcode map (R87). -/
inductive Op where
  | seeda | loadiva | seedb | loadsecb
  | newa | writea | fina
  | newb | writeb | finb | fin2b
  | fin2a | dual | clrerr
deriving DecidableEq, Repr

/-- Why a word is Illegal (R88, R89). -/
inductive DecodeError where
  /-- the OP byte is not in the opcode map -/
  | reservedOpcode (op : BitVec 8)
  /-- a bit the format requires to be 0 is set -/
  | mustBeZero (op : Op)
deriving DecidableEq, Repr

/-- The OP column of the opcode map (R87). -/
def Op.code : Op → BitVec 8
  | .seeda => 0x01
  | .loadiva => 0x02
  | .seedb => 0x03
  | .loadsecb => 0x04
  | .newa => 0x10
  | .writea => 0x11
  | .fina => 0x12
  | .newb => 0x20
  | .writeb => 0x21
  | .finb => 0x22
  | .fin2b => 0x23
  | .fin2a => 0x30
  | .dual => 0x31
  | .clrerr => 0x7F

/-- The format column of the opcode map (R87). -/
def Op.format : Op → Format
  | .seeda | .loadiva | .seedb | .loadsecb | .dual | .clrerr => .n
  | .newa | .fina | .newb | .finb | .fin2b | .fin2a => .c
  | .writea | .writeb => .w

/-- The rows of the opcode map, in its order (R87). -/
def Op.all : List Op :=
  [.seeda, .loadiva, .seedb, .loadsecb, .newa, .writea, .fina,
   .newb, .writeb, .finb, .fin2b, .fin2a, .dual, .clrerr]

/-- The row of the opcode map with this OP byte, if there is one (R88). -/
def Op.ofCode (b : BitVec 8) : Option Op := Op.all.find? fun o => o.code == b

/-- The bits a format compares with the opcode: all but its operand fields (R82 to R84). -/
def Format.mask : Format → Word
  | .n => 0xFFFFFFFFFFFFFFFF
  | .c => 0xFFFFFFFFFFFFF8FF
  | .w => 0xFFFF00000000F8FF

/-- The OP field, bits 7:0 (R81). -/
def fieldOp (word : Word) : BitVec 8 := word.extractLsb' 0 8

/-- The CTX field, bits 10:8, an index 0..7 (R81, R85). -/
def fieldCtx (word : Word) : Nat := (word.extractLsb' 8 3).toNat

/-- The LEN field, bits 31:16, a byte count 0..65535 (R81, R85). -/
def fieldLen (word : Word) : Nat := (word.extractLsb' 16 16).toNat

/-- The OFF field, bits 47:32, a byte index 0..65535 (R81, R85). -/
def fieldOff (word : Word) : Nat := (word.extractLsb' 32 16).toNat

/-- The command of a row with these operands; a format's unused operands are dropped (R82 to R85). -/
def Op.build (c off len : Nat) : Op → Instr
  | .seeda => .seeda
  | .loadiva => .loadiva
  | .seedb => .seedb
  | .loadsecb => .loadsecb
  | .newa => .newa c
  | .writea => .writea c off len
  | .fina => .fina c
  | .newb => .newb c
  | .writeb => .writeb c off len
  | .finb => .finb c
  | .fin2b => .fin2b c
  | .fin2a => .fin2a c
  | .dual => .dual
  | .clrerr => .clrerr

/-- `decode(word)` of R88; both errors are its `Illegal`. -/
def decode (word : Word) : Except DecodeError Instr :=
  match Op.ofCode (fieldOp word) with
  | none => .error (.reservedOpcode (fieldOp word))
  | some op =>
    if word &&& op.format.mask = op.code.setWidth 64 then
      .ok (op.build (fieldCtx word) (fieldOff word) (fieldLen word))
    else .error (.mustBeZero op)

/-- The decoder on the numbering of spec/opcode_table.json: a command is one 64-bit word (R80), so bit k of
`w` is bit k of the command word, and the bits from `nbits` on are 0. -/
def decodeTableWord (nbits w : Nat) : Option Instr :=
  match decode (BitVec.ofNat 64 (w % 2 ^ nbits)) with
  | .ok i => some i
  | .error _ => none

/-- The opcode row of a command. -/
def Instr.op : Instr → Op
  | .seeda => .seeda
  | .loadiva => .loadiva
  | .seedb => .seedb
  | .loadsecb => .loadsecb
  | .newa _ => .newa
  | .writea _ _ _ => .writea
  | .fina _ => .fina
  | .newb _ => .newb
  | .writeb _ _ _ => .writeb
  | .finb _ => .finb
  | .fin2b _ => .fin2b
  | .fin2a _ => .fin2a
  | .dual => .dual
  | .clrerr => .clrerr

/-- CTX of a command, 0 where its format has none (R92). -/
def Instr.ctx : Instr → Nat
  | .seeda | .loadiva | .seedb | .loadsecb | .dual | .clrerr => 0
  | .newa c | .fina c | .newb c | .finb c | .fin2b c | .fin2a c => c
  | .writea c _ _ | .writeb c _ _ => c

/-- OFF of a command, 0 where its format has none (R92). -/
def Instr.off : Instr → Nat
  | .writea _ off _ | .writeb _ off _ => off
  | .seeda | .loadiva | .seedb | .loadsecb | .dual | .clrerr => 0
  | .newa _ | .fina _ | .newb _ | .finb _ | .fin2b _ | .fin2a _ => 0

/-- LEN of a command, 0 where its format has none (R92). -/
def Instr.len : Instr → Nat
  | .writea _ _ len | .writeb _ _ len => len
  | .seeda | .loadiva | .seedb | .loadsecb | .dual | .clrerr => 0
  | .newa _ | .fina _ | .newb _ | .finb _ | .fin2b _ | .fin2a _ => 0

/-- The assembled word of R92: `zext_64(OP) | (CTX << 8) | (LEN << 16) | (OFF << 32)`. -/
def encode (i : Instr) : Word :=
  i.op.code.setWidth 64 ||| (BitVec.ofNat 64 i.ctx <<< 8) |||
    (BitVec.ofNat 64 i.len <<< 16) ||| (BitVec.ofNat 64 i.off <<< 32)

end Sys2Proof
end

