-- ==== Sys2Proof/Config.lean ====
section
/-! DEFINITION. What the instantiation fixes (00_scope.md R3 to R6) and the values the spec leaves open.
BASE (R6) has no name here: every offset of the model is relative to it (log entry 7). -/

namespace Sys2Proof

/-- The SeedGenerator's four-word generator state `G = (G0, G1, G2, G3)` (10_state.md R42). -/
structure Gen where
  g0 : Word
  g1 : Word
  g2 : Word
  g3 : Word
deriving DecidableEq, Repr, Inhabited

/-- NCTX of the default instantiation (R3). -/
def Config.nctx : Nat := 4

/-- MSGBUF_SIZE of the default instantiation (R4). -/
def Config.msgbufSize : Nat := 4096

/-- SG_INIT (R5): the four fixed constants of the SeedGenerator. OPEN: no value of it can be proved
(log entry 5). -/
opaque Config.sgInit : Gen

/-- The FREE VALUE that a MSGBUF byte holds when the host has not written it since reset
(20_memory.md R77): `freeByte stamp i` is what byte `i` reads as at that stamp of the state
(log entry 4). -/
opaque Config.freeByte : Nat → Nat → Byte

end Sys2Proof
end

