-- ==== Sys2Proof/Machine/State.lean ====
section
/-! DEFINITION. The state of the engine (10_state.md), the host's pending statements and the agents' schedule
(20_memory.md R71, 70_reset_and_hazards.md R264), the reasons a step can stop, and the state after reset
(10_state.md R45). Plain data throughout. -/

namespace Sys2Proof.Machine

/-- PHASE (10_state.md R41). BUSY = 1 exactly when PHASE = EXEC, so BUSY is held here and nowhere else. -/
inductive Phase where
  | idle
  | exec
deriving DecidableEq, Repr

/-- TAG of a context slot (R35): which variant the slot holds. The value 3 is never written and has no name. -/
inductive Tag where
  /-- 0: free, no hasher -/
  | none
  /-- 1: a Variant A hasher -/
  | a
  /-- 2: a Variant B hasher -/
  | b
deriving DecidableEq, Repr

/-- A hasher context slot (R34): the tag and four words, whose meaning by tag R36 gives. -/
structure Ctx where
  tag : Tag
  w0 : Word
  w1 : Word
  w2 : Word
  w3 : Word
deriving DecidableEq, Repr

/-- A slot as reset leaves it (R45). -/
def Ctx.free : Ctx := ⟨.none, 0, 0, 0, 0⟩

/-- The command latch (R41). Its `(op, ctx, off, len)` are held decoded, as one command (log entry 13). -/
structure Latch where
  cmd : Instr
  arg0 : Word
  arg1 : Word
deriving DecidableEq, Repr

/-- The errors of 60_exceptions.md R211. -/
inductive ErrCode where
  /-- E_ILLEGAL (R212) -/
  | illegal
  /-- E_CTX_RANGE (R213) -/
  | ctxRange
  /-- E_RANGE (R214) -/
  | range
  /-- E_UNKEYED (R215) -/
  | unkeyed
  /-- E_CTX_TAG (R216) -/
  | ctxTag
  /-- E_BUSY (R217) -/
  | busy
  /-- E_ENT_OVF (R218) -/
  | entOvf
  /-- E_ACCESS (R219) -/
  | access
deriving DecidableEq, Repr

/-- The width n of a host access: 1, 2, 4 or 8 bytes (20_memory.md R61). -/
inductive Width where
  | w1
  | w2
  | w4
  | w8
deriving DecidableEq, Repr

/-- A host access (R61): a window offset of 17 bits, a width, and a write's data, of which the low n bytes
are the value (log entry 16). -/
inductive Access where
  | read (off : BitVec 17) (n : Width)
  | write (off : BitVec 17) (n : Width) (data : Word)
deriving DecidableEq, Repr

/-- A statement of a host program (30_encoding.md R91, R93): an access, or one of the two polling loops. -/
inductive Stmt where
  /-- `ld…` or `st…` -/
  | access (a : Access)
  /-- `wait`: read STATUS, again while BUSY of the value read is 1 -/
  | wait
  /-- `waitent`: read STATUS, again while ENT_FULL of the value read is 1 -/
  | waitent
deriving DecidableEq, Repr

/-- Which agent moves: the host, the engine, or the platform asserting reset (20_memory.md R71,
70_reset_and_hazards.md R250, R264; log entry 1). -/
inductive Turn where
  | host
  | engine
  | reset
deriving DecidableEq, Repr

/-- What the model records of a run (93_implementation_defined.md section 5; log entry 3). -/
inductive Event where
  /-- a host read returned a value -/
  | returned (off : BitVec 17) (n : Width) (v : Word)
  /-- an access raised an error and, if a write, was dropped -/
  | raised (e : ErrCode) (a : Access)
deriving DecidableEq, Repr

/-- Reasons the model stops. The engine itself never stops (60_exceptions.md R210): both stand where the spec
gives a completion no meaning because the issue checks exclude it (R213, R214, R223), and no run from reset
reaches them (log entry 11). -/
inductive Fault where
  /-- Raised by a completion of a format C or W command on a slot the instantiation does not have
  (`withSlot`). Safe: the model stops where the engine has no behaviour. -/
  | noSuchSlot
  /-- Raised by the completion of WRITEA or WRITEB (`withSlice`) on a slice that is not inside MSGBUF
  (20_memory.md R66). Safe: the model stops where the engine has no behaviour. -/
  | outsideMsgbuf
deriving DecidableEq, Repr

/-- Reasons a command is refused. -/
inductive Refusal where
  /-- Raised by an arm of `exec` whose command has no meaning yet; no arm does. Safe. -/
  | notModelled (mnemonic : String)
deriving DecidableEq, Repr

/-- The whole state. -/
structure State where
  /-- PHASE, and so STATUS.BUSY (R41) -/
  phase : Phase
  /-- LATCH (R41) -/
  latch : Latch
  /-- ARG0 (R38) -/
  arg0 : Word
  /-- ARG1 (R38) -/
  arg1 : Word
  /-- RES0 (R39) -/
  res0 : Word
  /-- RES1 (R39) -/
  res1 : Word
  /-- IVA0 (R30) -/
  iva0 : Word
  /-- IVA1 (R30) -/
  iva1 : Word
  /-- STATUS.KEYED_A (R24, R30) -/
  keyedA : Bool
  /-- SECB (R31) -/
  secb : Word
  /-- SECB2 (R31) -/
  secb2 : Word
  /-- STATUS.KEYED_B (R24, R31) -/
  keyedB : Bool
  /-- ENTBUF (R40) -/
  entbuf : Word
  /-- STATUS.ENT_FULL (R27) -/
  entFull : Bool
  /-- STATUS.ERR (R24, R28) -/
  err : Bool
  /-- STATUS.ERRMULTI (R24, R28) -/
  errMulti : Bool
  /-- STATUS.ERRCODE (R24, R28) -/
  errCode : BitVec 8
  /-- G0 to G3 (R42) -/
  gen : Gen
  /-- the NCTX context slots, slot 0 first (R34); NCTX is this list's length -/
  ctxs : List Ctx
  /-- MSGBUF_SIZE of the instantiation (00_scope.md R4) -/
  msgbufSize : Nat
  /-- the MSGBUF bytes the host has written since reset, by byte index (20_memory.md R60, R77) -/
  msgbuf : List Host.Cell
  /-- the model's own: counts host writes, engine steps and resets, and keys the free value of an unwritten
  MSGBUF byte (log entry 4) -/
  stamp : Nat
  /-- the model's own: the host statements still to be performed (log entry 1) -/
  program : List Stmt
  /-- the model's own: which agent moves next (log entry 1) -/
  turns : List Turn
  /-- the model's own: what happened, newest first (log entry 3) -/
  history : List Event
deriving DecidableEq, Repr

/-- What one step, or one command, answers. -/
abbrev Result := Host.Outcome State Fault Refusal

/-- The reset values of R45 for an instantiation. ENTBUF, LATCH and G, which R45 leaves unspecified and which
nothing can observe, hold the values of log entry 8; no MSGBUF byte is written (20_memory.md R77). -/
def State.resetOf (nctx msgbufSize : Nat) : State where
  phase := .idle
  latch := ⟨.clrerr, 0, 0⟩
  arg0 := 0
  arg1 := 0
  res0 := 0
  res1 := 0
  iva0 := 0
  iva1 := 0
  keyedA := false
  secb := 0
  secb2 := 0
  keyedB := false
  entbuf := 0
  entFull := false
  err := false
  errMulti := false
  errCode := 0
  gen := ⟨0, 0, 0, 0⟩
  ctxs := List.replicate nctx Ctx.free
  msgbufSize := msgbufSize
  msgbuf := []
  stamp := 0
  program := []
  turns := []
  history := []

/-- The machine right after reset, in the default instantiation (R45; 00_scope.md R3, R4). -/
def State.reset : State := State.resetOf Config.nctx Config.msgbufSize

end Sys2Proof.Machine
end

