-- ==== Sys2Proof/Machine/Flags.lean ====
section
/-! DEFINITION. STATUS and the error record: the only flags the engine has (10_state.md R24 to R28, R43;
60_exceptions.md R211, R220). -/

namespace Sys2Proof.Machine

/-- The ERRCODE value of an error (60_exceptions.md R211). -/
def ErrCode.code : ErrCode → BitVec 8
  | .illegal => 0x01
  | .ctxRange => 0x02
  | .range => 0x03
  | .unkeyed => 0x04
  | .ctxTag => 0x05
  | .busy => 0x06
  | .entOvf => 0x07
  | .access => 0x08

/-- STATUS.BUSY: PHASE = EXEC (10_state.md R25, R41). -/
def State.busy (s : State) : Bool := s.phase == .exec

/-- SEEDA and SEEDB, the commands that take entropy (R26). -/
def takesEntropy (i : Instr) : Bool := i == .seeda || i == .seedb

/-- STATUS.ENT_REQ: the command in execution waits for an entropy word, so the engine has no step (R26). -/
def State.holding (s : State) : Bool := s.busy && takesEntropy s.latch.cmd && !s.entFull

/-- The engine has a step (70_reset_and_hazards.md R253). -/
def State.enabled (s : State) : Bool := s.busy && !s.holding

/-- A flag as bit `k` of a word. -/
def flagBit (b : Bool) (k : Nat) : Word := (if b then 1 else 0) <<< k

/-- The STATUS register as the host reads it; every bit not named here reads 0 (R24). -/
def State.status (s : State) : Word :=
  flagBit s.busy 0 ||| flagBit s.holding 1 ||| flagBit s.entFull 2 ||| flagBit s.keyedA 3 |||
    flagBit s.keyedB 4 ||| flagBit s.err 5 ||| flagBit s.errMulti 6 ||| (s.errCode.setWidth 64 <<< 8)

/-- `record(k)` (60_exceptions.md R220): the first error sets ERR and ERRCODE, a later one only ERRMULTI. -/
def State.record (e : ErrCode) (s : State) : State :=
  if s.err then { s with errMulti := true } else { s with err := true, errCode := e.code }

/-- `raise E_<NAME>`: the engine's whole error entry (R210, R220, R224). The record is written and nothing
else of the engine changes; the access that raised it goes to the model's history (log entry 3). -/
def State.raise (e : ErrCode) (a : Access) (s : State) : State :=
  { s.record e with history := .raised e a :: s.history }

/-- What CLRERR does to the record (44_control.md R200). -/
def State.clearErr (s : State) : State := { s with err := false, errMulti := false, errCode := 0 }

end Sys2Proof.Machine
end

