-- ==== Sys2Proof/Machine/Operands.lean ====
section
/-! DEFINITION. The data operations of 00_scope.md section 5 (R10 to R14), on which every algorithm of the
engine is written. Wrapping addition, xor, or, and (R9) are BitVec's own. -/

namespace Sys2Proof.Machine

/-- `rotl(v, r)` for 0 <= r <= 63 (00_scope.md R10). -/
def rotl (v : Word) (r : Nat) : Word := (v <<< r) ||| (v >>> (64 - r))

/-- `popcount(v)`: how many of bits 0 to 63 are 1 (R12). -/
def popcount (v : Word) : Nat := (List.range 64).countP fun i => v.getLsbD i

/-- `balanced(v)`: the population count is in the closed interval [24, 40] (R12). -/
def balanced (v : Word) : Bool := decide (24 ≤ popcount v) && decide (popcount v ≤ 40)

/-- `mul128(a, b)`: the exact 128-bit product (R13). -/
def mul128 (a b : Word) : BitVec 128 := a.setWidth 128 * b.setWidth 128

/-- `lo64(p) = p[63:0]` (R13). -/
def lo64 (p : BitVec 128) : Word := p.extractLsb' 0 64

/-- `hi64(p) = p[127:64]` (R13). -/
def hi64 (p : BitVec 128) : Word := p.extractLsb' 64 64

/-- `le(b)`: byte 0 of the string is the least significant byte (R14). -/
def le : List Byte → Word
  | [] => 0
  | x :: rest => x.setWidth 64 ||| (le rest <<< 8)

/-- `b[i..j]`: bytes i up to but not including j (R14). -/
def subBytes (b : List Byte) (i j : Nat) : List Byte := (b.drop i).take (j - i)

/-- Byte j of a word, bits [8j+7:8j] (R8). -/
def byteOf (v : Word) (j : Nat) : Byte := v.extractLsb' (8 * j) 8

/-- The low byte of a word (R8). -/
def lowByte (v : Word) : Byte := byteOf v 0

end Sys2Proof.Machine
end

