-- ==== Sys2Proof/Machine/Ops.lean ====
section
/-! DEFINITION. The shared operations: MSGBUF (20_memory.md), context slots (10_state.md R34), entropy
(40_seedgen.md R101), issue and completion of a command (60_exceptions.md R221, 10_state.md R41,
70_reset_and_hazards.md R253), and reset (R250). -/

namespace Sys2Proof.Machine

/-- The byte listed at an address, if the host has written it since reset. -/
def Memory.read (m : List Host.Cell) (a : Nat) : Option Byte := m.lookup a

/-- List a byte at an address, keeping the addresses rising and replacing the byte listed there. -/
def Memory.write (a : Nat) (v : Byte) : List Host.Cell → List Host.Cell
  | [] => [(a, v)]
  | (b, x) :: rest =>
    if a < b then (a, v) :: (b, x) :: rest
    else if a = b then (a, v) :: rest
    else (b, x) :: Memory.write a v rest

/-- The canonical form of MSGBUF: addresses strictly rising. An unlisted byte has no fixed value
(`State.byteAt`), so no entry can equal it. -/
abbrev Memory.wf (m : List Host.Cell) : Prop := (m.map Prod.fst).Pairwise (· < ·)

/-- What MSGBUF byte `i` reads as: the byte last written, or the free value of a byte the host has not
written since reset (20_memory.md R77; log entry 4). -/
def State.byteAt (s : State) (i : Nat) : Byte :=
  (Memory.read s.msgbuf i).getD (Config.freeByte s.stamp i)

/-- `MemRead(off, n)`: the byte string MSGBUF[off .. off+n) (R66). -/
def State.memRead (s : State) (off n : Nat) : List Byte := (List.range n).map fun j => s.byteAt (off + j)

/-- `n` bytes of `data`, lowest first, listed from address `i` on (R64, R67). -/
def Memory.store (i : Nat) (data : Word) (m : List Host.Cell) : Nat → List Host.Cell
  | 0 => m
  | n + 1 => Memory.write (i + n) (byteOf data n) (Memory.store i data m n)

/-- `MemWrite(i, n, data)`, the host's store (R64). -/
def State.memWrite (s : State) (i n : Nat) (data : Word) : State :=
  { s with msgbuf := Memory.store i data s.msgbuf n }

/-- NCTX (00_scope.md R3). -/
def State.nctx (s : State) : Nat := s.ctxs.length

/-- Run a completion on slot `c`; a slot that does not exist has no completion (10_state.md R34; log
entry 11). -/
def withSlot (c : Nat) (s : State) (k : Ctx → Result) : Result :=
  match s.ctxs[c]? with
  | some x => k x
  | none => .fault .noSuchSlot

/-- Run a completion on the bytes of a slice; a slice outside MSGBUF cannot be read (20_memory.md R66; log
entry 11). -/
def withSlice (off len : Nat) (s : State) (k : List Byte → Result) : Result :=
  if off + len ≤ s.msgbufSize then k (s.memRead off len) else .fault .outsideMsgbuf

/-- Replace slot `c` (10_state.md R34). -/
def State.setSlot (c : Nat) (x : Ctx) (s : State) : State := { s with ctxs := s.ctxs.set c x }

/-- `complete`: PHASE <- IDLE, and so BUSY <- 0 (10_state.md R41). LATCH keeps its contents (log entry 14). -/
def State.complete (s : State) : State := { s with phase := .idle }

/-- `take_entropy()` where ENT_FULL = 1 (40_seedgen.md R101): the word, and the state with ENT_FULL <- 0. -/
def State.takeEntropy (s : State) : Option (Word × State) :=
  if s.entFull then some (s.entbuf, { s with entFull := false }) else none

/-- The model's stamp moves on at a host write, an engine step and a reset (log entry 4). -/
def State.advance (s : State) : State := { s with stamp := s.stamp + 1 }

/-- A host read returned `v` (log entry 3). -/
def State.observe (off : BitVec 17) (n : Width) (v : Word) (s : State) : State :=
  { s with history := .returned off n v :: s.history }

/-- Reset (70_reset_and_hazards.md R250): every piece of the engine's state to its reset value, a command in
execution abandoned. The instantiation, and the model's stamp, program, schedule and history stay (log
entry 18). Assertion and release are one move (log entry 25). -/
def State.doReset (s : State) : State :=
  { State.resetOf s.nctx s.msgbufSize with
    stamp := s.stamp, program := s.program, turns := s.turns, history := s.history }

/-- The slot a command of format C or W names (30_encoding.md R83, R84). -/
def slotOf : Instr → Option Nat
  | .newa c | .writea c _ _ | .fina c | .fin2a c | .newb c | .writeb c _ _ | .finb c | .fin2b c => some c
  | .seeda | .loadiva | .seedb | .loadsecb | .dual | .clrerr => none

/-- OFF + LEN of a WRITE command, the exact sum (60_exceptions.md R214). -/
def sliceEnd : Instr → Option Nat
  | .writea _ off len | .writeb _ off len => some (off + len)
  | .seeda | .loadiva | .seedb | .loadsecb | .dual | .clrerr => none
  | .newa _ | .fina _ | .fin2a _ | .newb _ | .finb _ | .fin2b _ => none

/-- The tag a command requires of its slot (R216). -/
def tagFor : Instr → Option Tag
  | .writea _ _ _ | .fina _ | .fin2a _ => some .a
  | .writeb _ _ _ | .finb _ | .fin2b _ => some .b
  | .seeda | .loadiva | .seedb | .loadsecb | .dual | .clrerr => none
  | .newa _ | .newb _ => none

/-- E_CTX_RANGE applies (R213). -/
def slotMissing (i : Instr) (s : State) : Bool :=
  match slotOf i with
  | some c => decide (s.nctx ≤ c)
  | none => false

/-- E_RANGE applies (R214). -/
def sliceTooLong (i : Instr) (s : State) : Bool :=
  match sliceEnd i with
  | some e => decide (s.msgbufSize < e)
  | none => false

/-- E_UNKEYED applies (R215). -/
def unkeyed (i : Instr) (s : State) : Bool :=
  match i with
  | .newa _ => !s.keyedA
  | .newb _ => !s.keyedB
  | .seeda | .loadiva | .seedb | .loadsecb | .dual | .clrerr => false
  | .writea _ _ _ | .fina _ | .fin2a _ | .writeb _ _ _ | .finb _ | .fin2b _ => false

/-- The tag of slot `c`. -/
def State.tagOf (s : State) (c : Nat) : Option Tag := (s.ctxs[c]?).map Ctx.tag

/-- E_CTX_TAG applies (R216). -/
def wrongTag (i : Instr) (s : State) : Bool :=
  match slotOf i, tagFor i with
  | some c, some t => s.tagOf c != some t
  | some _, none => false
  | none, some _ => false
  | none, none => false

/-- The checks of R221 that follow decoding: the error of the first condition that holds, if one does. -/
def rejection (i : Instr) (s : State) : Option ErrCode :=
  if slotMissing i s then some .ctxRange
  else if sliceTooLong i s then some .range
  else if unkeyed i s then some .unkeyed
  else if wrongTag i s then some .ctxTag
  else none

/-- The window offset of CMD (10_state.md R20). -/
def cmdOff : BitVec 17 := 0x18

/-- The host access that issues a command: one aligned 8-byte write of its word to CMD (30_encoding.md R80,
R92). -/
def cmdWrite (i : Instr) : Access := .write cmdOff .w8 (encode i)

/-- Acceptance (10_state.md R41): LATCH takes the command and the current ARG0, ARG1; PHASE <- EXEC. -/
def State.accept (i : Instr) (s : State) : State :=
  { s with latch := ⟨i, s.arg0, s.arg1⟩, phase := .exec }

/-- The issue of a decoded command while BUSY = 0 (60_exceptions.md R221): rejected with one error, or
accepted. -/
def State.issueDecoded (i : Instr) (s : State) : State :=
  match rejection i s with
  | some e => s.raise e (cmdWrite i)
  | none => s.accept i

/-- The two parts of every command but CLRERR (log entry 10): while PHASE = IDLE the command is being issued
(60_exceptions.md R221); while PHASE = EXEC the engine step runs its completion (70_reset_and_hazards.md
R253). -/
def command (i : Instr) (completion : State → Result) (s : State) : Result :=
  match s.phase with
  | .idle => .next (s.issueDecoded i)
  | .exec => completion s

end Sys2Proof.Machine
end

