-- ==== Sys2Proof/Machine/BitTwidHash.lean ====
section
/-! DEFINITION. Variant A, BitTwidHash (41_bittwidhash.md): gather, ingestion, finalization and the commands
NEWA, WRITEA, FINA. -/

namespace Sys2Proof.Machine

/-- The two state words of a Variant A hasher (41_bittwidhash.md R130). -/
structure HashPair where
  s0 : Word
  s1 : Word
deriving DecidableEq, Repr

/-- The gather step; the new `s1` is computed from the old `s0` (R131). -/
def gather (h : HashPair) (w : Word) : HashPair := ⟨h.s0 + w, rotl (h.s0 + h.s1) 19⟩

/-- The gathers of the `n` leading 8-byte chunks (R132). -/
def gatherChunks (b : List Byte) (h : HashPair) (n : Nat) : HashPair :=
  (List.range n).foldl (fun h i => gather h (le (subBytes b (8 * i) (8 * i + 8)))) h

/-- `ingest_a`: the rule of R132 to R136 that matches the length of the byte string. -/
def ingestA (h : HashPair) (b : List Byte) : HashPair :=
  let len := b.length
  if 8 ≤ len then gather (gatherChunks b h ((len - 1) / 8)) (le (subBytes b (len - 8) len))
  else if 4 ≤ len then gather h (le (subBytes b 0 4) ||| (le (subBytes b (len - 4) len) <<< 32))
  else if 2 ≤ len then gather h (le (subBytes b 0 2) ||| (le (subBytes b (len - 2) len) <<< 16))
  else if len = 1 then gather h (le b)
  else h

/-- `finalize_a(s0, s1)` (R137); each line reads the words the lines before it left. -/
def finalizeA (s0 s1 : Word) : Word :=
  let s1 := s1 ^^^ s0
  let s0 := rotl s0 24 ^^^ s1 ^^^ (s1 <<< 16)
  let s1 := rotl s1 37
  rotl (s0 + s1) 17 + s0

/-- The slot NEWA leaves (R139). -/
def freshA (iva0 iva1 : Word) : Ctx := ⟨.a, iva0, iva1, 0, 0⟩

/-- The slot WRITEA leaves (R140). -/
def writtenA (x : Ctx) (b : List Byte) : Ctx :=
  let h := ingestA ⟨x.w0, x.w1⟩ b
  { x with w0 := h.s0, w1 := h.s1 }

/-- NEWA's completion (R139). -/
def completeNewa (c : Nat) (s : State) : Result :=
  withSlot c s fun _ => .next (s.setSlot c (freshA s.iva0 s.iva1)).complete

/-- NEWA c (R139). -/
def execNewa (c : Nat) (s : State) : Result := command (.newa c) (completeNewa c) s

/-- WRITEA's completion (R140). -/
def completeWritea (c off len : Nat) (s : State) : Result :=
  withSlot c s fun x => withSlice off len s fun b => .next (s.setSlot c (writtenA x b)).complete

/-- WRITEA c, off, len (R140). -/
def execWritea (c off len : Nat) (s : State) : Result := command (.writea c off len) (completeWritea c off len) s

/-- FINA's completion (R141). -/
def completeFina (c : Nat) (s : State) : Result :=
  withSlot c s fun x => .next (State.complete { s with res0 := finalizeA x.w0 x.w1 })

/-- FINA c (R141). -/
def execFina (c : Nat) (s : State) : Result := command (.fina c) (completeFina c) s

end Sys2Proof.Machine
end

