-- ==== Sys2Proof/Machine/Control.lean ====
section
/-! DEFINITION. The control command CLRERR (44_control.md). -/

namespace Sys2Proof.Machine

/-- CLRERR (44_control.md R200): acts within the CMD write that issues it and never sets BUSY. Issued while
BUSY = 1 it clears nothing and is recorded as E_BUSY; it is never latched, so the engine takes no step for it
(log entry 12). -/
def execClrerr (s : State) : Result :=
  match s.phase with
  | .idle => .next s.clearErr
  | .exec => .next (s.raise .busy (cmdWrite .clrerr))

end Sys2Proof.Machine
end

