-- ==== Sys2Proof/Machine/DualDigest.lean ====
section
/-! DEFINITION. The DualDigestExtension (43_dualdigest.md): the mixer and the commands FIN2A, DUAL. -/

namespace Sys2Proof.Machine

/-- `dual(primary)`: the secondary digest, whose low byte is never 0 (43_dualdigest.md R190). -/
def dual (primary : Word) : Word := if lowByte primary = 0 then primary + 1 else primary

/-- FIN2A's completion (R192). -/
def completeFin2a (c : Nat) (s : State) : Result :=
  withSlot c s fun x =>
    let p := finalizeA x.w0 x.w1
    .next (State.complete { s with res0 := p, res1 := dual p })

/-- FIN2A c (R192). -/
def execFin2a (c : Nat) (s : State) : Result := command (.fin2a c) (completeFin2a c) s

/-- DUAL's completion (R193). -/
def completeDual (s : State) : Result :=
  .next (State.complete { s with res0 := s.latch.arg0, res1 := dual s.latch.arg0 })

/-- DUAL (R193). -/
def execDual (s : State) : Result := command .dual completeDual s

end Sys2Proof.Machine
end

