-- ==== Sys2Proof/Machine/WhyHash.lean ====
section
/-! DEFINITION. Variant B, WhyHash (42_whyhash.md): the multiply-fold, ingestion and the commands NEWB,
WRITEB, FINB, FIN2B. -/

namespace Sys2Proof.Machine

/-- `K_B`, the source's fixed constant (40_seedgen.md R112, 42_whyhash.md R162). -/
def kB : Word := 0xda942042e4dd58b5

/-- The multiply-fold primitive (42_whyhash.md R160). -/
def mum (data state secret : Word) : Word :=
  let p := mul128 (state ^^^ secret) (data ^^^ secret)
  lo64 p ^^^ hi64 p

/-- The two running digests of a Variant B hasher (R161). -/
structure DigestPair where
  state : Word
  state2 : Word
deriving DecidableEq, Repr

/-- One update of both running digests with a word, each under its own secret (R163, R165). -/
def mumBoth (secret secret2 : Word) (d : DigestPair) (c : Word) : DigestPair :=
  ⟨mum c d.state secret, mum c d.state2 secret2⟩

/-- The `L div 8` full chunks, in order, each little-endian (R163). -/
def chunksB (secret secret2 : Word) (d : DigestPair) (b : List Byte) : DigestPair :=
  (List.range (b.length / 8)).foldl (fun d i => mumBoth secret secret2 d (le (subBytes b (8 * i) (8 * i + 8)))) d

/-- The fold of the `L mod 8` remaining bytes (R164). -/
def foldTail (b : List Byte) : Word :=
  (b.drop (8 * (b.length / 8))).foldl (fun acc x => rotl acc 8 ||| x.setWidth 64) 0

/-- The non-zero-low-byte guard (R166). -/
def guardLow (v : Word) : Word := if lowByte v = 0 then v + 1 else v

/-- `ingest_b`: the chunks, the mandatory last update and the guard on `state2` (R163 to R166). -/
def ingestB (secret secret2 : Word) (d : DigestPair) (b : List Byte) : DigestPair :=
  let d := mumBoth secret secret2 (chunksB secret secret2 d b) (foldTail b)
  ⟨d.state, guardLow d.state2⟩

/-- The slot NEWB leaves (R162, R169). -/
def freshB (secret secret2 : Word) : Ctx := ⟨.b, kB, kB, secret, secret2⟩

/-- The slot WRITEB leaves (R170). -/
def writtenB (x : Ctx) (b : List Byte) : Ctx :=
  let d := ingestB x.w2 x.w3 ⟨x.w0, x.w1⟩ b
  { x with w0 := d.state, w1 := d.state2 }

/-- NEWB's completion (R169). -/
def completeNewb (c : Nat) (s : State) : Result :=
  withSlot c s fun _ => .next (s.setSlot c (freshB s.secb s.secb2)).complete

/-- NEWB c (R169). -/
def execNewb (c : Nat) (s : State) : Result := command (.newb c) (completeNewb c) s

/-- WRITEB's completion (R170). -/
def completeWriteb (c off len : Nat) (s : State) : Result :=
  withSlot c s fun x => withSlice off len s fun b => .next (s.setSlot c (writtenB x b)).complete

/-- WRITEB c, off, len (R170). -/
def execWriteb (c off len : Nat) (s : State) : Result := command (.writeb c off len) (completeWriteb c off len) s

/-- FINB's completion (R171). -/
def completeFinb (c : Nat) (s : State) : Result :=
  withSlot c s fun x => .next (State.complete { s with res0 := x.w0 })

/-- FINB c (R171). -/
def execFinb (c : Nat) (s : State) : Result := command (.finb c) (completeFinb c) s

/-- FIN2B's completion (R172). -/
def completeFin2b (c : Nat) (s : State) : Result :=
  withSlot c s fun x => .next (State.complete { s with res0 := x.w0, res1 := x.w1 })

/-- FIN2B c (R172). -/
def execFin2b (c : Nat) (s : State) : Result := command (.fin2b c) (completeFin2b c) s

end Sys2Proof.Machine
end

