-- ==== Sys2Proof/Machine/SeedGen.lean ====
section
/-! DEFINITION. The SeedGenerator and the factory commands SEEDA, LOADIVA, SEEDB, LOADSECB
(40_seedgen.md). -/

namespace Sys2Proof.Machine

/-- The internal generator step (40_seedgen.md R104); each line reads the words the lines before it left. -/
def genRound (g : Gen) : Gen :=
  let t := g.g1 <<< 17
  let g2 := g.g2 ^^^ g.g0
  let g3 := g.g3 ^^^ g.g1
  let g1 := g.g1 ^^^ g2
  let g0 := g.g0 ^^^ g3
  let g2 := g2 ^^^ t
  let g3 := rotl g3 45
  ⟨g0, g1, g2, g3⟩

/-- The candidate of a generator state (R105). -/
def cand (g : Gen) : Word := rotl (g.g0 + g.g3) 23 + g.g0

/-- `n` rounds, discarding output (R107). -/
def rounds : Nat → Gen → Gen
  | 0, g => g
  | n + 1, g => rounds n (genRound g)

/-- The state at which a search of at most `n` rounds stops: after the first round whose candidate is
balanced, else after the last (R108). -/
def search : Nat → Gen → Gen
  | 0, g => g
  | n + 1, g => if balanced (cand (genRound g)) then genRound g else search n (genRound g)

/-- What `generate_iv` leaves: the two words and the generator state at the end. -/
structure IvResult where
  word0 : Word
  word1 : Word
  gen : Gen
deriving DecidableEq, Repr

/-- `generate_iv(e)` from the constants `init` = SG_INIT (R106, R110): 20 rounds of warm-up, then two searches
of at most 1000 rounds on one continuing generator state (R109). -/
def generateIv (init : Gen) (e : Word) : IvResult :=
  let warm := rounds 20 { init with g0 := init.g0 ^^^ e }
  let first := search 1000 warm
  let second := search 1000 first
  ⟨cand first, cand second, second⟩

/-- `derive_secret2(s) = mum(K_B, s, 0)` (R112). -/
def deriveSecret2 (s : Word) : Word := mum kB s 0

/-- SEEDA's step (R113): with no entropy word the command holds; else it completes. -/
def completeSeeda (s : State) : Result :=
  match s.takeEntropy with
  | none => .next s
  | some (e, s) =>
    let r := generateIv Config.sgInit e
    .next (State.complete { s with iva0 := r.word0, iva1 := r.word1, gen := r.gen, keyedA := true })

/-- SEEDA (R113). -/
def execSeeda (s : State) : Result := command .seeda completeSeeda s

/-- LOADIVA's completion (R114). -/
def completeLoadiva (s : State) : Result :=
  .next (State.complete { s with iva0 := s.latch.arg0, iva1 := s.latch.arg1, keyedA := true })

/-- LOADIVA (R114). -/
def execLoadiva (s : State) : Result := command .loadiva completeLoadiva s

/-- SEEDB's step (R115): with no entropy word the command holds; an unbalanced word is discarded and the
command stays in execution; a balanced one completes it. -/
def completeSeedb (s : State) : Result :=
  match s.takeEntropy with
  | none => .next s
  | some (e, s) =>
    if balanced e then
      .next (State.complete { s with secb := e, secb2 := deriveSecret2 e, keyedB := true })
    else .next s

/-- SEEDB (R115). -/
def execSeedb (s : State) : Result := command .seedb completeSeedb s

/-- LOADSECB's completion (R116). -/
def completeLoadsecb (s : State) : Result :=
  .next (State.complete
    { s with secb := s.latch.arg0, secb2 := deriveSecret2 s.latch.arg0, keyedB := true })

/-- LOADSECB (R116). -/
def execLoadsecb (s : State) : Result := command .loadsecb completeLoadsecb s

end Sys2Proof.Machine
end

