-- ==== Sys2Proof/Machine/Dispatch.lean ====
section
/-! DEFINITION. One arm per command (30_encoding.md R87). -/

namespace Sys2Proof.Machine

def exec (i : Instr) (s : State) : Host.Outcome State Fault Refusal :=
  match i with
  | .seeda => Sys2Proof.Machine.execSeeda s
  | .loadiva => Sys2Proof.Machine.execLoadiva s
  | .seedb => Sys2Proof.Machine.execSeedb s
  | .loadsecb => Sys2Proof.Machine.execLoadsecb s
  | .newa c => Sys2Proof.Machine.execNewa c s
  | .writea c off len => Sys2Proof.Machine.execWritea c off len s
  | .fina c => Sys2Proof.Machine.execFina c s
  | .newb c => Sys2Proof.Machine.execNewb c s
  | .writeb c off len => Sys2Proof.Machine.execWriteb c off len s
  | .finb c => Sys2Proof.Machine.execFinb c s
  | .fin2b c => Sys2Proof.Machine.execFin2b c s
  | .fin2a c => Sys2Proof.Machine.execFin2a c s
  | .dual => Sys2Proof.Machine.execDual s
  | .clrerr => Sys2Proof.Machine.execClrerr s

end Sys2Proof.Machine
end

