-- ==== Sys2Proof/Machine/Bus.lean ====
section
/-! DEFINITION. The host's accesses to the engine window (20_memory.md R60 to R65, 10_state.md R20, R21), the
issue of a command by a CMD write (60_exceptions.md R221), and the turns of the three agents (20_memory.md
R71, 70_reset_and_hazards.md R250, R253). -/

namespace Sys2Proof.Machine

/-- The host-visible registers (10_state.md R20). -/
inductive Reg where
  | id | param | status | cmd | entropy | arg0 | arg1 | res0 | res1 | iva0 | iva1 | secb | secb2
  | ctxTag (c : Nat)
  | ctxW0 (c : Nat)
  | ctxW1 (c : Nat)
  | ctxW2 (c : Nat)
  | ctxW3 (c : Nat)
deriving DecidableEq, Repr

/-- The access kinds (10_state.md R20). -/
inductive Kind where
  /-- read-only -/
  | ro
  /-- write-only -/
  | wo
  /-- read-write -/
  | rw
deriving DecidableEq, Repr

/-- The access column of the register map (R20). -/
def Reg.kind : Reg → Kind
  | .cmd | .entropy => .wo
  | .arg0 | .arg1 => .rw
  | .id | .param | .status | .res0 | .res1 | .iva0 | .iva1 | .secb | .secb2 => .ro
  | .ctxTag _ | .ctxW0 _ | .ctxW1 _ | .ctxW2 _ | .ctxW3 _ => .ro

/-- The offset column of the register map (R20). -/
def Reg.offset : Reg → Nat
  | .id => 0x000
  | .param => 0x008
  | .status => 0x010
  | .cmd => 0x018
  | .entropy => 0x020
  | .arg0 => 0x028
  | .arg1 => 0x030
  | .res0 => 0x038
  | .res1 => 0x040
  | .iva0 => 0x048
  | .iva1 => 0x050
  | .secb => 0x058
  | .secb2 => 0x060
  | .ctxTag c => 0x100 + 0x40 * c
  | .ctxW0 c => 0x108 + 0x40 * c
  | .ctxW1 c => 0x110 + 0x40 * c
  | .ctxW2 c => 0x118 + 0x40 * c
  | .ctxW3 c => 0x120 + 0x40 * c

/-- The registers of an engine with `nctx` slots (R20). -/
def regMap (nctx : Nat) : List Reg :=
  [.id, .param, .status, .cmd, .entropy, .arg0, .arg1, .res0, .res1, .iva0, .iva1, .secb, .secb2] ++
    (List.range nctx).flatMap fun c => [.ctxTag c, .ctxW0 c, .ctxW1 c, .ctxW2 c, .ctxW3 c]

/-- The register at an offset, if the offset names one (R20, R37). -/
def regAt (nctx off : Nat) : Option Reg := (regMap nctx).find? fun r => r.offset == off

/-- The ID constant: "BTWH" and the revision, 1 (R22). -/
def idWord : Word := 0x4254574800000001

/-- The PARAM constant: NCTX in bits 3:0, MSGBUF_SIZE in bits 48:32 (R23). -/
def State.param (s : State) : Word :=
  (BitVec.ofNat 4 s.nctx).setWidth 64 ||| ((BitVec.ofNat 17 s.msgbufSize).setWidth 64 <<< 32)

/-- The TAG register's value (R35). -/
def Tag.code : Tag → Word
  | .none => 0
  | .a => 1
  | .b => 2

/-- A field of slot `c`, 0 for a slot that does not exist (no register names one, R37). -/
def State.ctxField (s : State) (c : Nat) (f : Ctx → Word) : Word :=
  match s.ctxs[c]? with
  | some x => f x
  | none => 0

/-- What a host read of a register returns (R20, R21): its value, or 0 for a write-only register. -/
def State.readReg (s : State) : Reg → Word
  | .id => idWord
  | .param => s.param
  | .status => s.status
  | .cmd => 0
  | .entropy => 0
  | .arg0 => s.arg0
  | .arg1 => s.arg1
  | .res0 => s.res0
  | .res1 => s.res1
  | .iva0 => s.iva0
  | .iva1 => s.iva1
  | .secb => s.secb
  | .secb2 => s.secb2
  | .ctxTag c => s.ctxField c fun x => x.tag.code
  | .ctxW0 c => s.ctxField c Ctx.w0
  | .ctxW1 c => s.ctxField c Ctx.w1
  | .ctxW2 c => s.ctxField c Ctx.w2
  | .ctxW3 c => s.ctxField c Ctx.w3

/-- The number of bytes of an access (20_memory.md R61). -/
def Width.bytes : Width → Nat
  | .w1 => 1
  | .w2 => 2
  | .w4 => 4
  | .w8 => 8

/-- What a legal access reaches. -/
inductive Target where
  | reg (r : Reg)
  /-- the MSGBUF byte the access starts at -/
  | buf (i : Nat)
deriving DecidableEq, Repr

/-- The first offset of MSGBUF, the end of the register region (R60). -/
def msgbufBase : Nat := 0x10000

/-- The access checks of R62 to R65: what an access of width `n` at `off` reaches, none where it is not legal
(wrong width, misaligned, unmapped, or leaving its region). -/
def State.target (s : State) (off n : Nat) : Option Target :=
  if off < msgbufBase then
    if n = 8 ∧ off % 8 = 0 then (regAt s.nctx off).map Target.reg else none
  else if (off - msgbufBase) % n = 0 ∧ off - msgbufBase + n ≤ s.msgbufSize then
    some (.buf (off - msgbufBase))
  else none

/-- A host read (10_state.md R21, 20_memory.md R62, R63, R65): the value is returned; an access that is not
legal returns 0 and raises E_ACCESS. -/
def State.hostRead (off : BitVec 17) (n : Width) (s : State) : State :=
  match s.target off.toNat n.bytes with
  | some (.reg r) => s.observe off n (s.readReg r)
  | some (.buf i) => s.observe off n (le (s.memRead i n.bytes))
  | none => (s.raise .access (.read off n)).observe off n 0

/-- A CMD write of a word (60_exceptions.md R221): E_BUSY without decoding, E_ILLEGAL, or the issue of the
decoded command. -/
def issue (w : Word) (s : State) : Result :=
  if s.busy then .next (s.raise .busy (.write cmdOff .w8 w))
  else
    match decode w with
    | .error _ => .next (s.raise .illegal (.write cmdOff .w8 w))
    | .ok i => exec i s

/-- A legal ENTROPY write (10_state.md R40): fills ENTBUF, or is dropped with E_ENT_OVF while it is full. -/
def State.writeEntropy (off : BitVec 17) (v : Word) (s : State) : State :=
  if s.entFull then s.raise .entOvf (.write off .w8 v) else { s with entbuf := v, entFull := true }

/-- A legal register write (10_state.md R21): CMD issues, ENTROPY fills, ARG0 and ARG1 are replaced, a
read-only register raises E_ACCESS and keeps its value. -/
def writeReg (off : BitVec 17) (v : Word) (r : Reg) (s : State) : Result :=
  match r with
  | .cmd => issue v s
  | .entropy => .next (s.writeEntropy off v)
  | .arg0 => .next { s with arg0 := v }
  | .arg1 => .next { s with arg1 := v }
  | .id | .param | .status | .res0 | .res1 | .iva0 | .iva1 | .secb | .secb2 =>
    .next (s.raise .access (.write off .w8 v))
  | .ctxTag _ | .ctxW0 _ | .ctxW1 _ | .ctxW2 _ | .ctxW3 _ => .next (s.raise .access (.write off .w8 v))

/-- A host write (10_state.md R21, 20_memory.md R62 to R64; the order of checks of 60_exceptions.md R222). -/
def hostWrite (off : BitVec 17) (n : Width) (data : Word) (s : State) : Result :=
  match s.target off.toNat n.bytes with
  | some (.reg r) => writeReg off data r s
  | some (.buf i) =>
    if s.busy then .next (s.raise .busy (.write off n data)) else .next (s.memWrite i n.bytes data)
  | none => .next (s.raise .access (.write off n data))

/-- One host access (20_memory.md R61). Reads leave the stamp alone (R70); writes move it on. -/
def access (a : Access) (s : State) : Result :=
  match a with
  | .read off n => .next (s.hostRead off n)
  | .write off n data => hostWrite off n data s.advance

/-- One poll of a `wait` or `waitent` loop (30_encoding.md R93): a STATUS read; the loop's statement is kept
while bit `k` of the value read is 1, else the program goes on with `rest`. -/
def State.poll (k : Nat) (rest : List Stmt) (s : State) : State :=
  let s' := s.hostRead 0x10 .w8
  if s.status.getLsbD k then s' else { s' with program := rest }

/-- The host's turn: its next statement, one access (20_memory.md R61, R71). A program that has ended makes no
move (70_reset_and_hazards.md R263). -/
def hostTurn (s : State) : Result :=
  match s.program with
  | [] => .next s
  | .access a :: rest => access a { s with program := rest }
  | .wait :: rest => .next (s.poll 0 rest)
  | .waitent :: rest => .next (s.poll 2 rest)

/-- The engine's turn (70_reset_and_hazards.md R253): its one step where it is enabled, and nothing else
(log entry 17). -/
def engineTurn (s : State) : Result :=
  if s.enabled then exec s.latch.cmd s.advance else .next s

/-- The turn of one agent. A reset is one instantaneous move: DESIGN CHOICE, for the spec gives no duration of
its assertion and no effect of an access made before its release (70_reset_and_hazards.md R250, R251; log
entry 25). -/
def turn (t : Turn) (s : State) : Result :=
  match t with
  | .host => hostTurn s
  | .engine => engineTurn s
  | .reset => .next s.advance.doReset

/-- Which agent moves where the schedule says nothing: the engine where it has a step, so that an enabled step
is not postponed forever (70_reset_and_hazards.md R254), else the host. -/
def State.defaultTurn (s : State) : Turn := if s.enabled then .engine else .host

/-- The next move of the machine: the agent `turns` names, or the default one where it names none (log
entry 1). -/
def nextMove (s : State) : Result :=
  match s.turns with
  | [] => turn s.defaultTurn s
  | t :: rest => turn t { s with turns := rest }

/-- The placement of a command word as the next thing the host issues (log entry 2): a CMD write at the head
of its program, its turn at the head of the schedule, and the engine idle, without which a CMD write is not
decoded (60_exceptions.md R221). -/
def State.placeCommand (w : Word) (s : State) : State :=
  { s with
    phase := .idle, program := .access (.write cmdOff .w8 w) :: s.program, turns := .host :: s.turns }

end Sys2Proof.Machine
end

