-- ==== Sys2Proof/Machine/Assembler.lean ====
section
/-! DEFINITION. Host programs: command statements and the pseudo-instructions (30_encoding.md R91 to R93). -/

namespace Sys2Proof.Machine.Asm

/-- A command statement: `st64 CMD, <encoded word>` (R91, R92). -/
def cmd (i : Instr) : Stmt := .access (cmdWrite i)

/-- `st64 <R>, <v>` (R91). -/
def st64 (r : Reg) (v : Word) : Stmt := .access (.write (BitVec.ofNat 17 r.offset) .w8 v)

/-- `ld64 <R>` (R91). -/
def ld64 (r : Reg) : Stmt := .access (.read (BitVec.ofNat 17 r.offset) .w8)

/-- `st8 0x10000 + i, <v>` (R91). -/
def st8 (i : Nat) (v : Byte) : Stmt := .access (.write (BitVec.ofNat 17 (msgbufBase + i)) .w1 (v.setWidth 64))

/-- `ent <v>` (R93). -/
def ent (v : Word) : List Stmt := [st64 .entropy v]

/-- `setarg <v0>` (R93). -/
def setarg (v0 : Word) : List Stmt := [st64 .arg0 v0]

/-- `setarg <v0>, <v1>` (R93). -/
def setargs (v0 v1 : Word) : List Stmt := [st64 .arg0 v0, st64 .arg1 v1]

/-- `msg <i>, <bytes>` (R93). -/
def msg (i : Nat) : List Byte → List Stmt
  | [] => []
  | b :: rest => st8 i b :: msg (i + 1) rest

/-- `hasha <c>, <off>, <len>` (R93). -/
def hasha (c off len : Nat) : List Stmt :=
  [cmd (.newa c), .wait, cmd (.writea c off len), .wait, cmd (.fina c), .wait]

/-- `hashb <c>, <off>, <len>` (R93). -/
def hashb (c off len : Nat) : List Stmt :=
  [cmd (.newb c), .wait, cmd (.writeb c off len), .wait, cmd (.fin2b c), .wait]

end Sys2Proof.Machine.Asm
end

