-- ==== Sys2Proof/Safety.lean ====
section
/-! DEFINITION. What holds of the engine in every state a run reaches, in the words the statements use. -/

namespace Sys2Proof.Machine

/-- NCTX and MSGBUF_SIZE are legal (00_scope.md R3, R4). -/
abbrev State.LegalParams (s : State) : Prop :=
  1 ≤ s.nctx ∧ s.nctx ≤ 8 ∧ 8 ≤ s.msgbufSize ∧ s.msgbufSize ≤ 65536

/-- MSGBUF is in canonical form and lists only bytes that exist (20_memory.md R60). -/
abbrev State.LegalMsgbuf (s : State) : Prop :=
  Memory.wf s.msgbuf ∧ ∀ cell ∈ s.msgbuf, cell.1 < s.msgbufSize

/-- A slot by its tag: Variant A keeps W2 = W3 = 0 (10_state.md R36); Variant B keeps a secondary digest whose
low byte is not 0 (42_whyhash.md R168) and the secret2 its secret derives (R161, 40_seedgen.md R112). -/
abbrev Ctx.Legal (x : Ctx) : Prop :=
  (x.tag = .a → x.w2 = 0 ∧ x.w3 = 0) ∧
  (x.tag = .b → lowByte x.w1 ≠ 0 ∧ x.w3 = deriveSecret2 x.w2)

/-- The error record (60_exceptions.md R211, R220): no error, or the code of one. -/
abbrev State.LegalRecord (s : State) : Prop :=
  (s.err = false → s.errMulti = false ∧ s.errCode = 0) ∧
  (s.err = true → 1 ≤ s.errCode.toNat ∧ s.errCode.toNat ≤ 8)

/-- The command in execution is one that R221 accepted and still would (60_exceptions.md R223): it has an
encoding, it is not CLRERR (44_control.md R200), and no check rejects it. -/
abbrev State.LegalLatch (s : State) : Prop :=
  s.phase = .exec → s.latch.cmd.wf = true ∧ s.latch.cmd ≠ .clrerr ∧ rejection s.latch.cmd s = none

/-- The factory of Variant B holds a secret and the secret2 it derives (40_seedgen.md R115, R116; both are 0 at
reset, and 0 derives 0). -/
abbrev State.LegalSecret (s : State) : Prop := s.secb2 = deriveSecret2 s.secb

/-- RES1 is 0 as reset leaves it, or a secondary digest, whose low byte is not 0 (42_whyhash.md R168,
43_dualdigest.md R190). -/
abbrev State.LegalRes1 (s : State) : Prop := s.res1 = 0 ∨ lowByte s.res1 ≠ 0

/-- The invariant of the machine. -/
structure State.Inv (s : State) : Prop where
  params : s.LegalParams
  msgbuf : s.LegalMsgbuf
  slots : ∀ x ∈ s.ctxs, x.Legal
  record : s.LegalRecord
  latch : s.LegalLatch
  secret : s.LegalSecret
  res1 : s.LegalRes1

end Sys2Proof.Machine
end

