-- ==== Sys2Proof/Certificates/Slice0/Obligations.lean ====
section
/-! DEFINITION. The statements about the engine, from the numbered rules of spec/. -/

namespace Sys2Proof.Claims

open Sys2Proof.Machine

/-- The (mask, match) pairs of spec/opcode_table.json, in its order. -/
def rows : List (Word × Word) :=
  [(0xFFFFFFFFFFFFFFFF, 0x01), (0xFFFFFFFFFFFFFFFF, 0x02), (0xFFFFFFFFFFFFFFFF, 0x03),
   (0xFFFFFFFFFFFFFFFF, 0x04), (0xFFFFFFFFFFFFF8FF, 0x10), (0xFFFF00000000F8FF, 0x11),
   (0xFFFFFFFFFFFFF8FF, 0x12), (0xFFFFFFFFFFFFF8FF, 0x20), (0xFFFF00000000F8FF, 0x21),
   (0xFFFFFFFFFFFFF8FF, 0x22), (0xFFFFFFFFFFFFF8FF, 0x23), (0xFFFFFFFFFFFFF8FF, 0x30),
   (0xFFFFFFFFFFFFFFFF, 0x31), (0xFFFFFFFFFFFFFFFF, 0x7F)]

/-- The OP values R89 lists as reserved. -/
def reservedOp (n : Nat) : Prop :=
  n = 0 ∨ (0x05 ≤ n ∧ n ≤ 0x0F) ∨ (0x13 ≤ n ∧ n ≤ 0x1F) ∨ (0x24 ≤ n ∧ n ≤ 0x2F) ∨
    (0x32 ≤ n ∧ n ≤ 0x7E) ∨ (0x80 ≤ n ∧ n ≤ 0xFF)

/-- The access that writes a word to CMD. -/
def cmdAccess (w : Word) : Access := .write 0x18 .w8 w

/-- The result is the next state `t`, the model's own stamp aside (log entry 4). -/
def gives (r : Result) (t : State) : Prop := ∃ n, r = .next { t with stamp := n }

/-- `issue(w)` of R221, with the sets of commands it names written out. -/
def issued (w : Word) (s : State) : Result :=
  if s.phase = .exec then .next (s.raise .busy (cmdAccess w))
  else
    match decode w with
    | .error _ => .next (s.raise .illegal (cmdAccess w))
    | .ok i =>
      if i.op ∈ [Op.newa, .fina, .newb, .finb, .fin2b, .fin2a, .writea, .writeb] ∧ s.ctxs.length ≤ i.ctx then
        .next (s.raise .ctxRange (cmdAccess w))
      else if i.op ∈ [Op.writea, .writeb] ∧ s.msgbufSize < i.off + i.len then
        .next (s.raise .range (cmdAccess w))
      else if (i.op = .newa ∧ s.keyedA = false) ∨ (i.op = .newb ∧ s.keyedB = false) then
        .next (s.raise .unkeyed (cmdAccess w))
      else if i.op ∈ [Op.writea, .fina, .fin2a] ∧ (s.ctxs[i.ctx]?).map Ctx.tag ≠ some .a then
        .next (s.raise .ctxTag (cmdAccess w))
      else if i.op ∈ [Op.writeb, .finb, .fin2b] ∧ (s.ctxs[i.ctx]?).map Ctx.tag ≠ some .b then
        .next (s.raise .ctxTag (cmdAccess w))
      else if i.op = .clrerr then .next { s with err := false, errMulti := false, errCode := 0 }
      else .next { s with latch := ⟨i, s.arg0, s.arg1⟩, phase := .exec }

/-- The slot whose register this is, if it is a slot's. -/
def regSlot : Reg → Option Nat
  | .ctxTag c | .ctxW0 c | .ctxW1 c | .ctxW2 c | .ctxW3 c => some c
  | .id | .param | .status | .cmd | .entropy | .arg0 | .arg1 => none
  | .res0 | .res1 | .iva0 | .iva1 | .secb | .secb2 => none

/-- The register is one of an engine with `nctx` slots (R20, R37). -/
def exists_ (nctx : Nat) (r : Reg) : Prop := ∀ c, regSlot r = some c → c < nctx

/-- An access of `n` bytes at offset `off` that R62 to R65 admit. -/
def admitted (s : State) (off n : Nat) : Prop :=
  (off < 0x10000 ∧ n = 8 ∧ off % 8 = 0 ∧ ∃ r, r.offset = off ∧ exists_ s.ctxs.length r) ∨
    (0x10000 ≤ off ∧ (off - 0x10000) % n = 0 ∧ off - 0x10000 + n ≤ s.msgbufSize)

/-- An 8-byte read of the register at `off` returns `v` and changes nothing (the history is where the model
records what a read returned, log entry 3). -/
def readsAs (s : State) (off : Nat) (v : Word) : Prop :=
  access (.read (BitVec.ofNat 17 off) .w8) s =
    .next { s with history := .returned (BitVec.ofNat 17 off) .w8 v :: s.history }

/-- The words Variant A gathers for a byte string of 8 or more bytes (R132). -/
def longWords (b : List Byte) : List Word :=
  ((List.range ((b.length - 1) / 8)).map fun i => le ((b.drop (8 * i)).take 8)) ++ [le (b.drop (b.length - 8))]

/-- The state has the reset values R45 gives (what it leaves unspecified is not named). -/
def AtReset (s : State) : Prop :=
  s.status = 0 ∧ s.phase = .idle ∧ s.entFull = false ∧ s.keyedA = false ∧ s.keyedB = false ∧
    s.err = false ∧ s.errMulti = false ∧ s.errCode = 0 ∧
    s.arg0 = 0 ∧ s.arg1 = 0 ∧ s.res0 = 0 ∧ s.res1 = 0 ∧
    s.iva0 = 0 ∧ s.iva1 = 0 ∧ s.secb = 0 ∧ s.secb2 = 0 ∧
    (∀ x ∈ s.ctxs, x = ⟨.none, 0, 0, 0, 0⟩) ∧ (∀ a, Memory.read s.msgbuf a = none)

/-- The next step of `s` is the engine's step of command `i`. -/
def EngineRuns (s : State) (i : Instr) : Prop :=
  s.enabled = true ∧ s.latch.cmd = i ∧ (s.turns = [] ∨ s.turns.head? = some .engine)

/-- The next step of `s` is a reset. -/
def Resets (s : State) : Prop := s.turns.head? = some .reset

/-- The state with slot `d` wiped. -/
def wipe (d : Nat) (s : State) : State := { s with ctxs := s.ctxs.set d ⟨.none, 0, 0, 0, 0⟩ }

/-- A result with its next state changed by `f`. -/
def mapNext (f : State → State) : Result → Result
  | .next s => .next (f s)
  | .fault r => .fault r
  | .refused r => .refused r

/-- Every MSGBUF byte reads in `t` as in `s`. -/
def sameBytes (s t : State) : Prop := t.msgbufSize = s.msgbufSize ∧ ∀ a, t.byteAt a = s.byteAt a

/-- The error record and the history are as in `s`. -/
def sameRecord (s t : State) : Prop :=
  t.err = s.err ∧ t.errMulti = s.errMulti ∧ t.errCode = s.errCode ∧ t.history = s.history

/-- The Variant A factory is as in `s` (R30). -/
def sameFactoryA (s t : State) : Prop :=
  t.iva0 = s.iva0 ∧ t.iva1 = s.iva1 ∧ t.keyedA = s.keyedA ∧ t.gen = s.gen

/-- The Variant B factory is as in `s` (R31). -/
def sameFactoryB (s t : State) : Prop := t.secb = s.secb ∧ t.secb2 = s.secb2 ∧ t.keyedB = s.keyedB

/-- The entropy input is as in `s` (R40). -/
def sameEntropy (s t : State) : Prop := t.entbuf = s.entbuf ∧ t.entFull = s.entFull

/-- The operand registers and the model's own schedule are as in `s`. -/
def sameHostSide (s t : State) : Prop :=
  t.arg0 = s.arg0 ∧ t.arg1 = s.arg1 ∧ t.program = s.program ∧ t.turns = s.turns ∧ t.stamp = s.stamp

/-- The result registers are as in `s` (R39). -/
def sameResults (s t : State) : Prop := t.res0 = s.res0 ∧ t.res1 = s.res1

end Sys2Proof.Claims

open Sys2Proof Sys2Proof.Machine Sys2Proof.Claims

-- Encoding and decoding (30_encoding.md)

/-- R92: what each command statement assembles to, and the rule's four examples. -/
def Obligations.CommandsAssembleToTheirWords : Prop :=
  (∀ i, Asm.cmd i = .access (.write 0x18 .w8 (encode i))) ∧
  encode .seeda = 0x01 ∧ encode .loadiva = 0x02 ∧ encode .seedb = 0x03 ∧ encode .loadsecb = 0x04 ∧
  encode .dual = 0x31 ∧ encode .clrerr = 0x7F ∧
  (∀ c, encode (.newa c) = 0x10 ||| (BitVec.ofNat 64 c <<< 8)) ∧
  (∀ c, encode (.fina c) = 0x12 ||| (BitVec.ofNat 64 c <<< 8)) ∧
  (∀ c, encode (.newb c) = 0x20 ||| (BitVec.ofNat 64 c <<< 8)) ∧
  (∀ c, encode (.finb c) = 0x22 ||| (BitVec.ofNat 64 c <<< 8)) ∧
  (∀ c, encode (.fin2b c) = 0x23 ||| (BitVec.ofNat 64 c <<< 8)) ∧
  (∀ c, encode (.fin2a c) = 0x30 ||| (BitVec.ofNat 64 c <<< 8)) ∧
  (∀ c off len, encode (.writea c off len) =
    0x11 ||| (BitVec.ofNat 64 c <<< 8) ||| (BitVec.ofNat 64 len <<< 16) ||| (BitVec.ofNat 64 off <<< 32)) ∧
  (∀ c off len, encode (.writeb c off len) =
    0x21 ||| (BitVec.ofNat 64 c <<< 8) ||| (BitVec.ofNat 64 len <<< 16) ||| (BitVec.ofNat 64 off <<< 32)) ∧
  encode (.newa 1) = 0x0000000000000110 ∧ encode (.writea 0 0 12) = 0x00000000000C0011 ∧
  encode (.writeb 3 0x20 3) = 0x0000002000030321 ∧ encode .clrerr = 0x000000000000007F

/-- Words written out field by field from R81 to R84 and R87 decode to the commands they stand for. -/
def Obligations.SpecWordsDecode : Prop :=
  decode 0b0000000000000000000000000000000000000000000000000000000000000001 = .ok .seeda ∧
  decode 0b0000000000000000000000000000000000000000000000000000000000000011 = .ok .seedb ∧
  decode 0b0000000000000000000000000000000000000000000000000000011100010000 = .ok (.newa 7) ∧
  decode 0b0000000000000000000011111111101000000000000100000000000000010001 = .ok (.writea 0 4090 16) ∧
  decode 0b0000000000000000000000000010000000000000000000110000001100100001 = .ok (.writeb 3 0x20 3) ∧
  decode 0b0000000000000000000000000000000000000000000000000000001100100011 = .ok (.fin2b 3) ∧
  decode 0b0000000000000000000000000000000000000000000000000000000100110000 = .ok (.fin2a 1) ∧
  decode 0b0000000000000000000000000000000000000000000000000000000001111111 = .ok .clrerr

/-- Decoding the assembled word of a command gives the command back, with every operand at every value its
field admits (R88, R91, R92). -/
def Obligations.DecodeUndoesEncode : Prop := ∀ i : Instr, i.wf = true → decode (encode i) = .ok i

/-- A word that decodes is the assembled word of the command it decodes to, whose operands fit their fields
(R85, R88, R92): no bit of an accepted word is dropped. -/
def Obligations.EncodeUndoesDecode : Prop :=
  ∀ (w : Word) (i : Instr), decode w = .ok i → i.wf = true ∧ encode i = w

/-- R89, R212: a reserved OP, or a set bit in a must-be-zero field, decodes as Illegal; issued while BUSY = 0
such a word raises E_ILLEGAL and nothing else happens. -/
def Obligations.ReservedWordsAreIllegal : Prop :=
  (∀ w : Word, reservedOp (w.extractLsb' 0 8).toNat → ∃ e, decode w = .error e) ∧
  (∀ w : Word, ∀ row ∈ rows, w.extractLsb' 0 8 = row.2.extractLsb' 0 8 → w &&& row.1 ≠ row.2 →
    ∃ e, decode w = .error e) ∧
  (∃ e, decode 0 = .error e) ∧
  (∀ (w : Word) (e : DecodeError) (s : State), decode w = .error e → s.phase = .idle →
    issue w s = .next (s.raise .illegal (cmdAccess w))) ∧
  (∀ (w : Word) (i : Instr), decode w = .ok i → ∃ row ∈ rows, w &&& row.1 = row.2)

-- Steps (20_memory.md R71, 70_reset_and_hazards.md R253 to R255)

/-- A step runs the decoded command. The step of a host turn whose statement writes a command word to CMD, while
BUSY = 0, is `exec` of the decoded command, after the statement, the turn and one count of the stamp are taken;
the step of a state with a command word placed is the same; and the enabled engine step (R253) is `exec` of
LATCH's command, also where the schedule is empty. The schedule, its default and the stamp are the model's own
(log entries 1, 2, 4). -/
def Obligations.StepRunsTheDecodedCommand : Prop :=
  (∀ (s : State) (ts : List Turn) (ps : List Stmt) (w : Word) (i : Instr),
    s.turns = .host :: ts → s.program = .access (.write 0x18 .w8 w) :: ps → s.phase = .idle →
    decode w = .ok i →
    step s = exec i { s with turns := ts, program := ps, stamp := s.stamp + 1 }) ∧
  (∀ (s : State) (nbits w : Nat) (i : Instr), decode (BitVec.ofNat 64 (w % 2 ^ nbits)) = .ok i →
    step (s.withFetchWord nbits w) = exec i { s with phase := .idle, stamp := s.stamp + 1 }) ∧
  (∀ (s : State) (ts : List Turn), s.turns = .engine :: ts → s.phase = .exec →
    (s.latch.cmd = .seeda ∨ s.latch.cmd = .seedb → s.entFull = true) →
    step s = exec s.latch.cmd { s with turns := ts, stamp := s.stamp + 1 }) ∧
  (∀ s : State, s.turns = [] → s.phase = .exec →
    (s.latch.cmd = .seeda ∨ s.latch.cmd = .seedb → s.entFull = true) →
    step s = exec s.latch.cmd { s with stamp := s.stamp + 1 })

/-- R101, R255: SEEDA and SEEDB hold while ENT_FULL = 0: ENT_REQ reads 1 and the engine's turn changes nothing
but the schedule; so does its turn while IDLE. -/
def Obligations.HoldingAndIdleEnginesDoNothing : Prop :=
  (∀ (s : State) (ts : List Turn), s.turns = .engine :: ts → s.phase = .exec →
    s.latch.cmd = .seeda ∨ s.latch.cmd = .seedb → s.entFull = false →
    s.status.getLsbD 1 = true ∧ step s = .next { s with turns := ts }) ∧
  (∀ (s : State) (ts : List Turn), s.turns = .engine :: ts → s.phase = .idle →
    step s = .next { s with turns := ts })

/-- R93: `wait` reads STATUS and repeats while BUSY is 1; `waitent` repeats while ENT_FULL is 1. -/
def Obligations.PollingLoopsRepeatWhileTheBitIsSet : Prop :=
  (∀ (s : State) (ts : List Turn) (ps : List Stmt), s.turns = .host :: ts → s.program = .wait :: ps →
    step s = .next { s with
      turns := ts
      program := if s.phase = .exec then .wait :: ps else ps
      history := .returned 0x10 .w8 s.status :: s.history }) ∧
  (∀ (s : State) (ts : List Turn) (ps : List Stmt), s.turns = .host :: ts → s.program = .waitent :: ps →
    step s = .next { s with
      turns := ts
      program := if s.entFull = true then .waitent :: ps else ps
      history := .returned 0x10 .w8 s.status :: s.history })

/-- R25, R41, R253: a command whose issue passes every check is run by the next engine step on the ARG0 and
ARG1 of its acceptance. The schedule and the stamp are the model's own (log entries 1, 4). -/
def Obligations.AcceptedCommandRunsInTheNextEngineStep : Prop :=
  ∀ (s : State) (ts : List Turn) (ps : List Stmt) (i : Instr),
    s.turns = .host :: .engine :: ts → s.program = Asm.cmd i :: ps → s.phase = .idle →
    i.wf = true → i ≠ .clrerr → rejection i s = none → (i = .seeda ∨ i = .seedb → s.entFull = true) →
    ∃ t, step s = .next t ∧ t.phase = .exec ∧
      step t = exec i { s with
        turns := ts, program := ps, stamp := s.stamp + 2, phase := .exec, latch := ⟨i, s.arg0, s.arg1⟩ }

-- Issue and errors (60_exceptions.md)

/-- R221: the outcome of a CMD write of any word in any state, check by check. -/
def Obligations.IssueFollowsTheOrderOfChecks : Prop :=
  ∀ (w : Word) (s : State), issue w s = issued w s ∧
    ∃ n, access (cmdAccess w) s = issued w { s with stamp := n }

/-- R220, with the codes of R211: what raising an error writes, and that it writes nothing else. -/
def Obligations.RaisingAnErrorRecordsIt : Prop :=
  (∀ (s : State) (e : ErrCode) (a : Access), s.err = false →
    s.raise e a = { s with err := true, errCode := e.code, history := .raised e a :: s.history }) ∧
  (∀ (s : State) (e : ErrCode) (a : Access), s.err = true →
    s.raise e a = { s with errMulti := true, history := .raised e a :: s.history }) ∧
  ErrCode.code .illegal = 1 ∧ ErrCode.code .ctxRange = 2 ∧ ErrCode.code .range = 3 ∧ ErrCode.code .unkeyed = 4 ∧
  ErrCode.code .ctxTag = 5 ∧ ErrCode.code .busy = 6 ∧ ErrCode.code .entOvf = 7 ∧ ErrCode.code .access = 8

/-- R210: a command rejected at issue changes the error record (and the model's history) and nothing else. -/
def Obligations.RejectedCommandsChangeOnlyTheRecord : Prop :=
  ∀ (i : Instr) (s t : State), s.phase = .idle → i ≠ .clrerr → exec i s = .next t → t.phase = .idle →
    t.err = true ∧
      t = { s with err := t.err, errMulti := t.errMulti, errCode := t.errCode, history := t.history }

/-- R224, R257, R258: no host access while a command runs, erroneous or not, changes the command, a slot, a
written MSGBUF byte, a factory or a result (an unwritten byte has no fixed value, log entry 4). -/
def Obligations.AccessesSpareTheRunningCommand : Prop :=
  ∀ (a : Access) (s t : State), s.phase = .exec → access a s = .next t →
    t.phase = .exec ∧ t.latch = s.latch ∧ t.ctxs = s.ctxs ∧ t.msgbuf = s.msgbuf ∧
      t.msgbufSize = s.msgbufSize ∧ sameFactoryA s t ∧ sameFactoryB s t ∧ sameResults s t

/-- R217: E_BUSY for a CMD write and for a legal MSGBUF write while BUSY = 1, each dropped, and for no other
access. -/
def Obligations.BusyDropsCmdAndMsgbufWrites : Prop :=
  (∀ (w : Word) (s : State), s.phase = .exec →
    gives (access (cmdAccess w) s) (s.raise .busy (cmdAccess w))) ∧
  (∀ (off : BitVec 17) (n : Width) (d : Word) (s : State), s.phase = .exec → 0x10000 ≤ off.toNat →
    admitted s off.toNat n.bytes →
    gives (access (.write off n d) s) (s.raise .busy (.write off n d))) ∧
  (∀ (a : Access) (s t : State) (a' : Access), access a s = .next t → .raised .busy a' ∈ t.history →
    .raised .busy a' ∈ s.history ∨
      (a' = a ∧ s.phase = .exec ∧ ((∃ w, a = cmdAccess w) ∨
        ∃ off n d, a = .write off n d ∧ 0x10000 ≤ off.toNat ∧ admitted s off.toNat n.bytes)))

/-- R40, R218: an ENTROPY write fills ENTBUF, or is dropped with E_ENT_OVF while it is full, BUSY or not. -/
def Obligations.EntropyWritesFillOrOverflow : Prop :=
  ∀ (v : Word) (s : State),
    gives (access (.write 0x20 .w8 v) s)
      (if s.entFull = true then s.raise .entOvf (.write 0x20 .w8 v)
        else { s with entbuf := v, entFull := true })

-- Registers (10_state.md)

/-- R20, R21: a host read of each register returns its value, of CMD and ENTROPY 0, and changes nothing. -/
def Obligations.RegistersReadTheirValues : Prop :=
  ∀ s : State,
    readsAs s 0x000 0x4254574800000001 ∧ readsAs s 0x008 s.param ∧ readsAs s 0x010 s.status ∧
    readsAs s 0x018 0 ∧ readsAs s 0x020 0 ∧ readsAs s 0x028 s.arg0 ∧ readsAs s 0x030 s.arg1 ∧
    readsAs s 0x038 s.res0 ∧ readsAs s 0x040 s.res1 ∧ readsAs s 0x048 s.iva0 ∧ readsAs s 0x050 s.iva1 ∧
    readsAs s 0x058 s.secb ∧ readsAs s 0x060 s.secb2 ∧
    ∀ (c : Nat) (x : Ctx), c < 8 → s.ctxs[c]? = some x →
      readsAs s (0x100 + 0x40 * c) (match x.tag with | .none => 0 | .a => 1 | .b => 2) ∧
      readsAs s (0x108 + 0x40 * c) x.w0 ∧ readsAs s (0x110 + 0x40 * c) x.w1 ∧
      readsAs s (0x118 + 0x40 * c) x.w2 ∧ readsAs s (0x120 + 0x40 * c) x.w3

/-- R20, R37: an offset names exactly the register the map gives, and no two registers share one. -/
def Obligations.RegisterMapIsExact : Prop :=
  ∀ (nctx off : Nat) (r : Reg), regAt nctx off = some r ↔ r.offset = off ∧ exists_ nctx r

/-- R22, R23: the ID and PARAM constants, field by field, as they are read; a write to either is dropped with
E_ACCESS, and no step changes PARAM. -/
def Obligations.IdAndParamAreConstant : Prop :=
  (∀ s : State, readsAs s 0x000 idWord ∧ readsAs s 0x008 s.param) ∧
  (∀ (v : Word) (s : State),
    gives (access (.write 0x000 .w8 v) s) (s.raise .access (.write 0x000 .w8 v)) ∧
    gives (access (.write 0x008 .w8 v) s) (s.raise .access (.write 0x008 .w8 v))) ∧
  idWord = 0x4254574800000001 ∧ byteOf idWord 7 = 0x42 ∧ byteOf idWord 6 = 0x54 ∧ byteOf idWord 5 = 0x57 ∧
  byteOf idWord 4 = 0x48 ∧ idWord.extractLsb' 0 32 = 1 ∧
  (∀ s : State, s.LegalParams →
    (s.param.extractLsb' 0 4).toNat = s.nctx ∧ s.param.extractLsb' 4 28 = 0 ∧
    (s.param.extractLsb' 32 17).toNat = s.msgbufSize ∧ s.param.extractLsb' 49 15 = 0) ∧
  State.reset.param = 0x0000100000000004 ∧
  (∀ s t : State, step s = .next t → t.param = s.param)

/-- R24, R26: every bit of STATUS; while ENT_REQ reads 1 the engine does not step. -/
def Obligations.StatusReadsItsFields : Prop :=
  ∀ s : State,
    (s.status.getLsbD 0 = true ↔ s.phase = .exec) ∧
    (s.status.getLsbD 1 = true ↔
      s.phase = .exec ∧ (s.latch.cmd = .seeda ∨ s.latch.cmd = .seedb) ∧ s.entFull = false) ∧
    (s.status.getLsbD 1 = true → engineTurn s = .next s) ∧
    s.status.getLsbD 2 = s.entFull ∧ s.status.getLsbD 3 = s.keyedA ∧ s.status.getLsbD 4 = s.keyedB ∧
    s.status.getLsbD 5 = s.err ∧ s.status.getLsbD 6 = s.errMulti ∧ s.status.getLsbD 7 = false ∧
    s.status.extractLsb' 8 8 = s.errCode ∧ s.status.extractLsb' 16 48 = 0

/-- R21, R38, R219: a write replaces ARG0 or ARG1, BUSY or not; a write to a read-only register is dropped and
raises E_ACCESS. -/
def Obligations.RegisterWritesFollowTheAccessKind : Prop :=
  (∀ (v : Word) (s : State),
    gives (access (.write 0x28 .w8 v) s) { s with arg0 := v } ∧
    gives (access (.write 0x30 .w8 v) s) { s with arg1 := v }) ∧
  (∀ (r : Reg) (off : BitVec 17) (v : Word) (s : State), r.kind = .ro → exists_ s.ctxs.length r →
    off.toNat = r.offset → r.offset < 0x10000 →
    gives (access (.write off .w8 v) s) (s.raise .access (.write off .w8 v)))

-- Window and message buffer (20_memory.md)

/-- R62, R63: an access of the wrong width, misaligned, unmapped or leaving its region is dropped if a write,
returns 0 if a read, and raises E_ACCESS; nothing else changes. -/
def Obligations.InadmissibleAccessesAreDropped : Prop :=
  ∀ (off : BitVec 17) (n : Width) (s : State), ¬ admitted s off.toNat n.bytes →
    (∀ d : Word, gives (access (.write off n d) s) (s.raise .access (.write off n d))) ∧
    access (.read off n) s = .next { s.raise .access (.read off n) with
      history := .returned off n 0 :: .raised .access (.read off n) :: s.history }

/-- R64: a legal MSGBUF write while BUSY = 0 stores byte j of its data at i + j, and every other byte stays as
last written, or unwritten (log entry 4); while BUSY = 1 it is dropped with E_BUSY; one that is not legal is
dropped with E_ACCESS. -/
def Obligations.MsgbufWritesStoreTheirBytes : Prop :=
  ∀ (off : BitVec 17) (n : Width) (d : Word) (i : Nat) (s : State), off.toNat = 0x10000 + i →
    (i % n.bytes = 0 ∧ i + n.bytes ≤ s.msgbufSize → s.phase = .idle →
      ∃ t, access (.write off n d) s = .next t ∧
        (∀ j, j < n.bytes → t.byteAt (i + j) = d.extractLsb' (8 * j) 8) ∧
        (∀ a, a < i ∨ i + n.bytes ≤ a → Memory.read t.msgbuf a = Memory.read s.msgbuf a) ∧
        t = { s with stamp := t.stamp, msgbuf := t.msgbuf }) ∧
    (i % n.bytes = 0 ∧ i + n.bytes ≤ s.msgbufSize → s.phase = .exec →
      gives (access (.write off n d) s) (s.raise .busy (.write off n d))) ∧
    (¬ (i % n.bytes = 0 ∧ i + n.bytes ≤ s.msgbufSize) →
      gives (access (.write off n d) s) (s.raise .access (.write off n d)))

/-- R65: a legal MSGBUF read returns its bytes, lowest first, BUSY or not, and changes nothing; one that is
not legal returns 0 and raises E_ACCESS. No command changes MSGBUF. -/
def Obligations.MsgbufReadsAssembleTheirBytes : Prop :=
  (∀ (i : Instr) (s t : State), exec i s = .next t → t.msgbuf = s.msgbuf) ∧
  ∀ (off : BitVec 17) (n : Width) (i : Nat) (s : State), off.toNat = 0x10000 + i →
    (i % n.bytes = 0 ∧ i + n.bytes ≤ s.msgbufSize →
      ∃ v : Word, access (.read off n) s = .next { s with history := .returned off n v :: s.history } ∧
        (∀ j, j < n.bytes → v.extractLsb' (8 * j) 8 = s.byteAt (i + j)) ∧
        (∀ k, 8 * n.bytes ≤ k → v.getLsbD k = false)) ∧
    (¬ (i % n.bytes = 0 ∧ i + n.bytes ≤ s.msgbufSize) →
      access (.read off n) s = .next { s.raise .access (.read off n) with
        history := .returned off n 0 :: .raised .access (.read off n) :: s.history })

/-- R67: MSGBUF holds the same bytes under every width: an 8-byte string read at `i` is the little-endian
assembly of the eight 1-byte strings at `i` to `i + 7`, and a stored word reads back. -/
def Obligations.MixedWidthsSeeTheSameBytes : Prop :=
  (∀ (s : State) (i j : Nat), j < 8 → byteOf (le (s.memRead i 8)) j = lowByte (le (s.memRead (i + j) 1))) ∧
  (∀ (s : State) (i : Nat) (v : Word), le ((s.memWrite i 8 v).memRead i 8) = v)

-- The commands' completions (40 to 44), each with all it changes

/-- R113: with an entropy word waiting, SEEDA's step stores both generated words and completes. That LATCH and
ENTBUF keep their contents and what G holds afterwards are the model's choice (log entries 9, 14, 19). -/
def Obligations.SeedaKeysVariantA : Prop :=
  ∀ s : State, s.phase = .exec → s.entFull = true →
    exec .seeda s = .next { s with
      phase := .idle, entFull := false, keyedA := true
      iva0 := (generateIv Config.sgInit s.entbuf).word0
      iva1 := (generateIv Config.sgInit s.entbuf).word1
      gen := (generateIv Config.sgInit s.entbuf).gen }

/-- R115: SEEDB's step on a balanced word stores it and completes; on an unbalanced one it discards it and
stays in execution. The rule's six boundary words are sorted as it says. That LATCH and ENTBUF keep their
contents is the model's choice (log entries 14, 19). -/
def Obligations.SeedbTakesTheFirstBalancedWord : Prop :=
  (∀ s : State, s.phase = .exec → s.entFull = true → 24 ≤ popcount s.entbuf → popcount s.entbuf ≤ 40 →
    exec .seedb s = .next { s with
      phase := .idle, entFull := false, keyedB := true
      secb := s.entbuf, secb2 := deriveSecret2 s.entbuf }) ∧
  (∀ s : State, s.phase = .exec → s.entFull = true → popcount s.entbuf < 24 ∨ 40 < popcount s.entbuf →
    exec .seedb s = .next { s with entFull := false }) ∧
  popcount 0 = 0 ∧ popcount 0xffffffffffffffff = 64 ∧ popcount 0x00000000007fffff = 23 ∧
  popcount 0x000001ffffffffff = 41 ∧ popcount 0x0000000000ffffff = 24 ∧ popcount 0x000000ffffffffff = 40

/-- R114, R116, R193: LOADIVA and LOADSECB store the latched operands unchecked, DUAL writes the latched operand
and its extension, and each completes. That LATCH keeps its contents is the model's choice (log entry 14). -/
def Obligations.CommandsOnTheLatchedOperands : Prop :=
  (∀ s : State, s.phase = .exec →
    exec .loadiva s = .next { s with
      phase := .idle, keyedA := true, iva0 := s.latch.arg0, iva1 := s.latch.arg1 }) ∧
  (∀ s : State, s.phase = .exec →
    exec .loadsecb s = .next { s with
      phase := .idle, keyedB := true, secb := s.latch.arg0, secb2 := deriveSecret2 s.latch.arg0 }) ∧
  (∀ s : State, s.phase = .exec →
    exec .dual s = .next { s with phase := .idle, res0 := s.latch.arg0, res1 := dual s.latch.arg0 })

/-- R139, R162, R169: NEWA and NEWB make a fresh hasher in their slot, whatever the slot held. That LATCH keeps
its contents is the model's choice (log entry 14). -/
def Obligations.NewCommandsMakeAFreshHasher : Prop :=
  (∀ (c : Nat) (s : State), s.phase = .exec → c < s.ctxs.length →
    exec (.newa c) s = .next { s with phase := .idle, ctxs := s.ctxs.set c ⟨.a, s.iva0, s.iva1, 0, 0⟩ }) ∧
  (∀ (c : Nat) (s : State), s.phase = .exec → c < s.ctxs.length →
    exec (.newb c) s = .next { s with
      phase := .idle
      ctxs := s.ctxs.set c ⟨.b, 0xda942042e4dd58b5, 0xda942042e4dd58b5, s.secb, s.secb2⟩ })

/-- R140: WRITEA ingests its slice into W0, W1 of its slot. That LATCH keeps its contents is the model's choice
(log entry 14). -/
def Obligations.WriteaIngestsItsSlice : Prop :=
  ∀ (c off len : Nat) (x : Ctx) (s : State), s.phase = .exec → s.ctxs[c]? = some x →
    off + len ≤ s.msgbufSize →
    exec (.writea c off len) s = .next { s with
      phase := .idle
      ctxs := s.ctxs.set c
        ⟨x.tag, (ingestA ⟨x.w0, x.w1⟩ (s.memRead off len)).s0, (ingestA ⟨x.w0, x.w1⟩ (s.memRead off len)).s1,
          x.w2, x.w3⟩ }

/-- R141, R171, R172, R192: FINA and FINB write the primary digest to RES0 alone; FIN2A and FIN2B also the
secondary to RES1. That LATCH keeps its contents is the model's choice (log entry 14). -/
def Obligations.FinishCommandsWriteTheDigests : Prop :=
  ∀ (c : Nat) (x : Ctx) (s : State), s.phase = .exec → s.ctxs[c]? = some x →
    exec (.fina c) s = .next { s with phase := .idle, res0 := finalizeA x.w0 x.w1 } ∧
    exec (.fin2a c) s = .next { s with
      phase := .idle, res0 := finalizeA x.w0 x.w1, res1 := dual (finalizeA x.w0 x.w1) } ∧
    exec (.finb c) s = .next { s with phase := .idle, res0 := x.w0 } ∧
    exec (.fin2b c) s = .next { s with phase := .idle, res0 := x.w0, res1 := x.w1 }

/-- R170: WRITEB ingests its slice into W0, W1 of its slot, under the slot's own secrets. That LATCH keeps its
contents is the model's choice (log entry 14). -/
def Obligations.WritebIngestsItsSlice : Prop :=
  ∀ (c off len : Nat) (x : Ctx) (s : State), s.phase = .exec → s.ctxs[c]? = some x →
    off + len ≤ s.msgbufSize →
    exec (.writeb c off len) s = .next { s with
      phase := .idle
      ctxs := s.ctxs.set c
        ⟨x.tag, (ingestB x.w2 x.w3 ⟨x.w0, x.w1⟩ (s.memRead off len)).state,
          (ingestB x.w2 x.w3 ⟨x.w0, x.w1⟩ (s.memRead off len)).state2, x.w2, x.w3⟩ }

/-- R200: CLRERR clears the record within its issue and changes nothing else; issued while BUSY = 1 it clears
nothing and E_BUSY is recorded. Its frame: nothing but the record and, where it is turned away, the history.
What `exec` does with CLRERR while PHASE = EXEC is the model's choice (log entry 12). -/
def Obligations.ClrerrClearsTheRecord : Prop :=
  (∀ s : State, s.phase = .idle →
    exec .clrerr s = .next { s with err := false, errMulti := false, errCode := 0 }) ∧
  (∀ s : State, s.phase = .idle → issue 0x7F s = exec .clrerr s) ∧
  (∀ s : State, s.phase = .exec → issue 0x7F s = .next (s.raise .busy (cmdAccess 0x7F))) ∧
  (∀ s t : State, exec .clrerr s = .next t →
    t = { s with err := t.err, errMulti := t.errMulti, errCode := t.errCode, history := t.history } ∧
      sameBytes s t)

-- Frames, at issue and at completion

/-- What SEEDA, LOADIVA, SEEDB and LOADSECB leave unchanged (that ENTBUF keeps its word is the model's choice,
log entry 19). -/
def Obligations.FactoryCommandsFrame : Prop :=
  (∀ (i : Instr) (s t : State), i ∈ [Instr.seeda, .loadiva, .seedb, .loadsecb] → exec i s = .next t →
    t.ctxs = s.ctxs ∧ sameResults s t ∧ sameHostSide s t ∧ sameRecord s t ∧ sameBytes s t ∧
      t.entbuf = s.entbuf) ∧
  (∀ (i : Instr) (s t : State), i ∈ [Instr.seeda, .loadiva] → exec i s = .next t → sameFactoryB s t) ∧
  (∀ (i : Instr) (s t : State), i ∈ [Instr.seedb, .loadsecb] → exec i s = .next t → sameFactoryA s t) ∧
  (∀ (i : Instr) (s t : State), i ∈ [Instr.loadiva, .loadsecb] → exec i s = .next t →
    sameEntropy s t ∧ t.gen = s.gen)

/-- What NEWA, WRITEA, NEWB and WRITEB leave unchanged: every other slot, every register, every byte; the
record only where a rejected issue writes it (that LATCH stays is the model's choice, log entry 14). -/
def Obligations.SlotCommandsFrame : Prop :=
  ∀ (i : Instr) (c off len : Nat) (s t : State),
    i ∈ [Instr.newa c, .writea c off len, .newb c, .writeb c off len] → exec i s = .next t →
    t.ctxs.length = s.ctxs.length ∧ (∀ d, d ≠ c → t.ctxs[d]? = s.ctxs[d]?) ∧
      (s.phase = .idle → t.ctxs = s.ctxs) ∧ (s.phase = .exec → sameRecord s t ∧ t.latch = s.latch) ∧
      sameResults s t ∧ sameHostSide s t ∧ sameFactoryA s t ∧ sameFactoryB s t ∧ sameEntropy s t ∧
      sameBytes s t

/-- What FINA, FINB, FIN2A, FIN2B and DUAL leave unchanged: every slot, every register but RES0 and RES1, every
byte; FINA and FINB leave RES1 too (that LATCH stays is the model's choice, log entry 14). -/
def Obligations.ResultCommandsFrame : Prop :=
  (∀ (i : Instr) (c : Nat) (s t : State),
    i ∈ [Instr.fina c, .finb c, .fin2a c, .fin2b c, .dual] → exec i s = .next t →
    t.ctxs = s.ctxs ∧ (s.phase = .idle → sameResults s t) ∧
      (s.phase = .exec → sameRecord s t ∧ t.latch = s.latch) ∧
      sameHostSide s t ∧ sameFactoryA s t ∧ sameFactoryB s t ∧ sameEntropy s t ∧ sameBytes s t) ∧
  (∀ (i : Instr) (c : Nat) (s t : State), i ∈ [Instr.fina c, .finb c] → exec i s = .next t →
    t.res1 = s.res1)

-- Algorithms

/-- R10, R13: `rotl` moves bit k to bit (k + r) mod 64; the 128-bit product is exact and its halves are its
low and high 64 bits. -/
def Obligations.RotationAndProductAreExact : Prop :=
  (∀ (v : Word) (r k : Nat), r < 64 → k < 64 → (rotl v r).getLsbD ((k + r) % 64) = v.getLsbD k) ∧
  (∀ a b : Word, (mul128 a b).toNat = a.toNat * b.toNat ∧
    (lo64 (mul128 a b)).toNat = a.toNat * b.toNat % 2 ^ 64 ∧
    (hi64 (mul128 a b)).toNat = a.toNat * b.toNat / 2 ^ 64)

/-- R104, R105: the generator step, the candidate and their examples. -/
def Obligations.GeneratorStepAndCandidate : Prop :=
  (∀ g0 g1 g2 g3 : Word, genRound ⟨g0, g1, g2, g3⟩ =
    ⟨g0 ^^^ (g3 ^^^ g1), g1 ^^^ (g2 ^^^ g0), (g2 ^^^ g0) ^^^ (g1 <<< 17), rotl (g3 ^^^ g1) 45⟩) ∧
  genRound ⟨1, 2, 3, 4⟩ = ⟨0x0000000000000007, 0, 0x0000000000040002, 0x0000c00000000000⟩ ∧
  (∀ g : Gen, cand g = rotl (g.g0 + g.g3) 23 + g.g0) ∧
  cand ⟨0x7, 0x0, 0x40002, 0xc00000000000⟩ = 0x0000000003800067

/-- R106 to R110: IV generation seeds SG_INIT with the entropy word in G0, warms up 20 rounds, and searches
twice on one continuing state; it takes between 22 and 2020 rounds. -/
def Obligations.IvGenerationSearchesTwice : Prop :=
  ∀ (g0 g1 g2 g3 e : Word), ∃ k0 k1, 1 ≤ k0 ∧ k0 ≤ 1000 ∧ 1 ≤ k1 ∧ k1 ≤ 1000 ∧
    22 ≤ 20 + k0 + k1 ∧ 20 + k0 + k1 ≤ 2020 ∧
    (generateIv ⟨g0, g1, g2, g3⟩ e).word0 = cand (rounds (20 + k0) ⟨g0 ^^^ e, g1, g2, g3⟩) ∧
    (generateIv ⟨g0, g1, g2, g3⟩ e).word1 = cand (rounds (20 + k0 + k1) ⟨g0 ^^^ e, g1, g2, g3⟩) ∧
    (balanced (generateIv ⟨g0, g1, g2, g3⟩ e).word0 = true ∨ k0 = 1000) ∧
    (balanced (generateIv ⟨g0, g1, g2, g3⟩ e).word1 = true ∨ k1 = 1000) ∧
    (∀ j, 1 ≤ j → j < k0 → balanced (cand (rounds (20 + j) ⟨g0 ^^^ e, g1, g2, g3⟩)) = false) ∧
    (∀ j, 1 ≤ j → j < k1 → balanced (cand (rounds (20 + k0 + j) ⟨g0 ^^^ e, g1, g2, g3⟩)) = false)

/-- R111: the fallback can give unbalanced words: from the zero state and the zero word both are 0. -/
def Obligations.FallbackWordsCanBeUnbalanced : Prop :=
  (∀ n, rounds n ⟨0, 0, 0, 0⟩ = ⟨0, 0, 0, 0⟩) ∧ generateIv ⟨0, 0, 0, 0⟩ 0 = ⟨0, 0, ⟨0, 0, 0, 0⟩⟩ ∧
    balanced 0 = false

/-- R160: the multiply-fold by the exact product, its corner cases, and that its first two arguments
commute. -/
def Obligations.MultiplyFold : Prop :=
  (∀ data state secret : Word, mum data state secret =
    BitVec.ofNat 64 ((state ^^^ secret).toNat * (data ^^^ secret).toNat % 2 ^ 64) ^^^
      BitVec.ofNat 64 ((state ^^^ secret).toNat * (data ^^^ secret).toNat / 2 ^ 64)) ∧
  (∀ data secret : Word, mum data secret secret = 0) ∧ (∀ state secret : Word, mum secret state secret = 0) ∧
  (∀ data state secret : Word, mum data state secret = mum state data secret) ∧
  mum 0 0 0 = 0 ∧ mum 0x8000000000000000 2 0 = 1 ∧
  mum 0xffffffffffffffff 0xffffffffffffffff 0 = 0xffffffffffffffff ∧
  mum 0 0 0xffffffffffffffff = 0xffffffffffffffff ∧ mum 0xda942042e4dd58b5 1 0 = 0xda942042e4dd58b5

/-- R112: the derived secret by the exact product with K_B, that K_B is the initial value of both running
digests, its popcount and the rule's examples. -/
def Obligations.DerivedSecret : Prop :=
  (∀ s s2 : Word, (freshB s s2).w0 = 0xda942042e4dd58b5 ∧ (freshB s s2).w1 = 0xda942042e4dd58b5) ∧
  (∀ s : Word, deriveSecret2 s = mum 0xda942042e4dd58b5 s 0 ∧
    deriveSecret2 s = BitVec.ofNat 64 (s.toNat * 0xda942042e4dd58b5 % 2 ^ 64) ^^^
      BitVec.ofNat 64 (s.toNat * 0xda942042e4dd58b5 / 2 ^ 64)) ∧
  popcount 0xda942042e4dd58b5 = 29 ∧ deriveSecret2 1 = 0xda942042e4dd58b5 ∧ deriveSecret2 0 = 0 ∧
  deriveSecret2 0x0123456789abcdef = 0x9a07cc7df774e1c4

/-- R132: a byte string of L >= 8 bytes is gathered as its (L - 1) div 8 leading chunks and its last 8 bytes,
ceil(L/8) words; where L is a multiple of 8 they are its chunks, each once, and otherwise the tail begins
8 - (L mod 8) bytes before the end of the last leading chunk. -/
def Obligations.LongStringsAreGatheredWithAnOverlappingTail : Prop :=
  ∀ (h : HashPair) (b : List Byte), 8 ≤ b.length →
    ingestA h b = (longWords b).foldl gather h ∧ (longWords b).length = (b.length + 7) / 8 ∧
    (b.length % 8 = 0 →
      longWords b = (List.range (b.length / 8)).map fun i => le ((b.drop (8 * i)).take 8)) ∧
    (b.length % 8 ≠ 0 → b.length - 8 + (8 - b.length % 8) = 8 * ((b.length - 1) / 8))

/-- R133 to R136: a byte string of 4 to 7, 2 to 3 and 1 bytes is gathered as one packed word, the empty string
not at all; with the rules' examples. -/
def Obligations.ShortStringsAreGatheredAsOneWord : Prop :=
  (∀ (h : HashPair) (b : List Byte), 4 ≤ b.length → b.length ≤ 7 →
    ingestA h b = gather h (le (b.take 4) ||| (le (b.drop (b.length - 4)) <<< 32))) ∧
  (∀ (h : HashPair) (b : List Byte), 2 ≤ b.length → b.length ≤ 3 →
    ingestA h b = gather h (le (b.take 2) ||| (le (b.drop (b.length - 2)) <<< 16))) ∧
  (∀ (h : HashPair) (x : Byte), ingestA h [x] = gather h (x.setWidth 64)) ∧
  (∀ h : HashPair, ingestA h [] = h) ∧
  (∀ h : HashPair, ingestA h [1, 2, 3, 4, 5] = gather h 0x0504030204030201) ∧
  (∀ h : HashPair, ingestA h [1, 2] = gather h 0x0000000002010201) ∧
  (∀ h : HashPair, ingestA h [1, 2, 3] = gather h 0x0000000003020201)

/-- R138: WRITEA slices whose lengths are multiples of 8, followed by a last slice whose length is a multiple of
8 or at least 8, give the state of one WRITEA of their concatenation; 4 + 4 bytes and 8 + 4 bytes do not. -/
def Obligations.AlignedSplitsIngestAsOneString : Prop :=
  (∀ (h : HashPair) (bs : List (List Byte)) (b : List Byte), (∀ x ∈ bs, x.length % 8 = 0) →
    b.length % 8 = 0 ∨ 8 ≤ b.length →
    ingestA (bs.foldl ingestA h) b = ingestA h (bs.flatten ++ b)) ∧
  (∃ h, ingestA (ingestA h [1, 2, 3, 4]) [5, 6, 7, 8] ≠ ingestA h [1, 2, 3, 4, 5, 6, 7, 8]) ∧
  (∃ h, ingestA (ingestA h [1, 2, 3, 4, 5, 6, 7, 8]) [9, 10, 11, 12] ≠
    ingestA h [1, 2, 3, 4, 5, 6, 7, 8, 9, 10, 11, 12])

/-- R131, R137: the gather step, finalization, and the rules' examples. -/
def Obligations.GatherAndFinalization : Prop :=
  (∀ s0 s1 w : Word, gather ⟨s0, s1⟩ w = ⟨s0 + w, rotl (s0 + s1) 19⟩) ∧
  gather ⟨0, 0⟩ 1 = ⟨1, 0⟩ ∧
  gather ⟨0xffffffffffffffff, 1⟩ 0xffffffffffffffff = ⟨0xfffffffffffffffe, 0⟩ ∧
  (∀ s0 s1 : Word, finalizeA s0 s1 =
    rotl ((rotl s0 24 ^^^ (s1 ^^^ s0) ^^^ ((s1 ^^^ s0) <<< 16)) + rotl (s1 ^^^ s0) 37) 17 +
      (rotl s0 24 ^^^ (s1 ^^^ s0) ^^^ ((s1 ^^^ s0) <<< 16))) ∧
  finalizeA 0 0 = 0 ∧ finalizeA 1 0 = 0x0040020201030001 ∧
  finalizeA 0xffffffffffffffff 0xffffffffffffffff = 0xfffffffffffffffe ∧
  finalizeA 0xdf900294d8f554a5 0x170865df4b3201fc = 0x952dee75c0dd2d46

/-- R164: the remaining bytes fold with the first most significant: byte r - 1 - j of the word is remaining
byte j, and every higher bit is 0. -/
def Obligations.RemainderFoldsMostSignificantFirst : Prop :=
  (∀ (b : List Byte) (j : Nat), j < b.length % 8 →
    some (byteOf (foldTail b) (b.length % 8 - 1 - j)) = b[8 * (b.length / 8) + j]?) ∧
  (∀ (b : List Byte) (k : Nat), 8 * (b.length % 8) ≤ k → (foldTail b).getLsbD k = false) ∧
  foldTail [1, 2, 3] = 0x0000000000010203

/-- R163, R165, R166: a WRITEB slice updates both digests by its chunks in order and once more by the folded
remainder, always; the secondary is then guarded, and so its low byte is not 0. -/
def Obligations.IngestionOfVariantB : Prop :=
  (∀ (secret secret2 : Word) (d : DigestPair) (b : List Byte), ∃ m m2 : Word,
    m = mum (foldTail b)
      (((List.range (b.length / 8)).map fun i => le ((b.drop (8 * i)).take 8)).foldl
        (fun acc c => mum c acc secret) d.state) secret ∧
    m2 = mum (foldTail b)
      (((List.range (b.length / 8)).map fun i => le ((b.drop (8 * i)).take 8)).foldl
        (fun acc c => mum c acc secret2) d.state2) secret2 ∧
    ingestB secret secret2 d b = ⟨m, if m2.extractLsb' 0 8 = 0 then m2 + 1 else m2⟩) ∧
  (∀ (secret secret2 : Word) (d : DigestPair) (b : List Byte),
    (ingestB secret secret2 d b).state2.extractLsb' 0 8 ≠ 0) ∧
  (∀ m : Word, m.extractLsb' 0 8 = 0 → m + 1 = m ||| 1 ∧ (m + 1).extractLsb' 0 8 = 1)

/-- R190: the mixer, that its low byte is never 0, and its examples. -/
def Obligations.DualMixer : Prop :=
  (∀ p : Word, p.extractLsb' 0 8 = 0 → dual p = p + 1 ∧ dual p = p ||| 1) ∧
  (∀ p : Word, p.extractLsb' 0 8 ≠ 0 → dual p = p) ∧
  (∀ p : Word, (dual p).extractLsb' 0 8 ≠ 0) ∧
  dual 0 = 1 ∧ dual 0x100 = 0x101 ∧ dual 0xffffffffffffff00 = 0xffffffffffffff01 ∧ dual 0xff = 0xff ∧
  dual 0xffffffffffffffff = 0xffffffffffffffff

-- The whole machine

/-- Every step keeps the invariant of the machine. -/
def Obligations.StepKeepsTheInvariant : Prop := ∀ s t : State, s.Inv → step s = .next t → t.Inv

/-- The invariant holds after reset. -/
def Obligations.ResetMeetsTheInvariant : Prop := State.reset.Inv

/-- R210, R223: from a state that meets the invariant every step answers a next state: nothing stops the
engine. -/
def Obligations.InvariantStatesNeverStop : Prop := ∀ s : State, s.Inv → ∃ t, step s = .next t

/-- R223, R253, R255: from a state that meets the invariant the enabled engine step completes the command,
unless it is SEEDB on an unbalanced word, and it raises no error. -/
def Obligations.EnabledEngineStepCompletes : Prop :=
  ∀ s : State, s.Inv → s.enabled = true → s.turns = [] ∨ s.turns.head? = some .engine →
    ∃ t, step s = .next t ∧ sameRecord s t ∧
      (t.phase = .idle ∨ (s.latch.cmd = .seedb ∧ balanced s.entbuf = false ∧ t.phase = .exec))

/-- R100, R102, R115: a SEEDB step that completes leaves a balanced secret, the word it took, and the secret2
it derives. -/
def Obligations.SeedbSecretsAreBalanced : Prop :=
  ∀ s t : State, s.phase = .exec → exec .seedb s = .next t → t.phase = .idle →
    24 ≤ popcount t.secb ∧ popcount t.secb ≤ 40 ∧ t.secb = s.entbuf ∧ t.secb2 = deriveSecret2 t.secb ∧
      s.entFull = true

/-- R168, R190: the secondary digest of FIN2B (on a legal Variant B slot), of FIN2A and of DUAL has a low byte
that is not 0. -/
def Obligations.SecondaryDigestsAreNeverEmptySentinels : Prop :=
  (∀ (c : Nat) (x : Ctx) (s t : State), s.phase = .exec → s.ctxs[c]? = some x → x.tag = .b → x.Legal →
    exec (.fin2b c) s = .next t → t.res1.extractLsb' 0 8 ≠ 0) ∧
  (∀ (c : Nat) (s t : State), s.phase = .exec → exec (.fin2a c) s = .next t →
    t.res1.extractLsb' 0 8 ≠ 0) ∧
  (∀ s t : State, s.phase = .exec → exec .dual s = .next t → t.res1.extractLsb' 0 8 ≠ 0)

/-- R30, R31: a step changes the Variant A factory only by completing SEEDA or LOADIVA, the Variant B factory
only by SEEDB or LOADSECB, and either by reset. -/
def Obligations.FactoriesAreWrittenOnlyByTheirCommands : Prop :=
  ∀ s t : State, step s = .next t →
    (EngineRuns s .seeda ∨ EngineRuns s .loadiva ∨ Resets s ∨
      (t.iva0 = s.iva0 ∧ t.iva1 = s.iva1 ∧ t.keyedA = s.keyedA)) ∧
    (EngineRuns s .seedb ∨ EngineRuns s .loadsecb ∨ Resets s ∨
      (t.secb = s.secb ∧ t.secb2 = s.secb2 ∧ t.keyedB = s.keyedB))

/-- R34: a step changes slot c only by completing NEWA, WRITEA, NEWB or WRITEB on it, or by reset. -/
def Obligations.SlotsAreWrittenOnlyByTheirCommands : Prop :=
  ∀ (s t : State) (c : Nat), step s = .next t → t.ctxs[c]? ≠ s.ctxs[c]? →
    Resets s ∨ EngineRuns s (.newa c) ∨ EngineRuns s (.newb c) ∨
      (∃ off len, EngineRuns s (.writea c off len)) ∨ ∃ off len, EngineRuns s (.writeb c off len)

/-- R39, R66: a step changes RES0 only by completing a finish command or DUAL, RES1 only by FIN2A, FIN2B or
DUAL, and either by reset; an engine step never changes MSGBUF. -/
def Obligations.ResultsAndMsgbufHaveTheirWriters : Prop :=
  (∀ s t : State, step s = .next t → t.res0 ≠ s.res0 →
    Resets s ∨ EngineRuns s .dual ∨
      ∃ c, EngineRuns s (.fina c) ∨ EngineRuns s (.finb c) ∨ EngineRuns s (.fin2a c) ∨ EngineRuns s (.fin2b c)) ∧
  (∀ s t : State, step s = .next t → t.res1 ≠ s.res1 →
    Resets s ∨ EngineRuns s .dual ∨ ∃ c, EngineRuns s (.fin2a c) ∨ EngineRuns s (.fin2b c)) ∧
  (∀ (i : Instr) (s t : State), EngineRuns s i → step s = .next t → t.msgbuf = s.msgbuf)

/-- R259: ARG0 and ARG1 may be rewritten while BUSY = 1; the command in execution does the same, for it uses the
values latched at its acceptance. -/
def Obligations.ArgWritesDoNotDisturbTheRunningCommand : Prop :=
  (∀ (v : Word) (s : State), s.phase = .exec →
    gives (access (.write 0x28 .w8 v) s) { s with arg0 := v } ∧
    gives (access (.write 0x30 .w8 v) s) { s with arg1 := v }) ∧
  (∀ (i : Instr) (s t : State), s.phase = .idle → exec i s = .next t → t.phase = .exec →
    t.latch = ⟨i, s.arg0, s.arg1⟩) ∧
  ∀ (i : Instr) (s : State) (v : Word), s.phase = .exec →
    exec i { s with arg0 := v } = mapNext (fun t => { t with arg0 := v }) (exec i s) ∧
    exec i { s with arg1 := v } = mapNext (fun t => { t with arg1 := v }) (exec i s)

/-- R73: a command reads and writes no slot but its own: wiping another slot before it is the same as wiping it
after. -/
def Obligations.SlotsDoNotInterfere : Prop :=
  ∀ (i : Instr) (d : Nat) (s : State), slotOf i ≠ some d →
    exec i (wipe d s) = mapNext (wipe d) (exec i s)

/-- R45, R250: a reset at any instant gives every piece of state its reset value and leaves the instantiation's
constants, and `State.reset` has those values in the default instantiation (R3, R4). -/
def Obligations.ResetRestoresEveryResetValue : Prop :=
  (AtReset State.reset ∧ State.reset.ctxs.length = 4 ∧ State.reset.msgbufSize = 4096 ∧
    State.reset.param = 0x0000100000000004) ∧
  ∀ (s : State) (ts : List Turn), s.turns = .reset :: ts →
    ∃ t, step s = .next t ∧ AtReset t ∧ t.ctxs.length = s.ctxs.length ∧ t.msgbufSize = s.msgbufSize ∧
      t.param = s.param
end

