-- ==== Sys2Proof/Laws/Codec.lean ====
section
/-! SUPPORT. The fields of an assembled command word (30_encoding.md R81 to R85, R92), and the opcode map read
both ways. -/

namespace Sys2Proof

/-- The word `zext_64(OP) | (CTX << 8) | (LEN << 16) | (OFF << 32)` of R92, on field values. -/
def wordOf (op : BitVec 8) (c : BitVec 3) (len off : BitVec 16) : Word :=
  op.setWidth 64 ||| (c.setWidth 64 <<< 8) ||| (len.setWidth 64 <<< 16) ||| (off.setWidth 64 <<< 32)

section fields
variable (op : BitVec 8) (c : BitVec 3) (len off : BitVec 16)

theorem wordOf_op : (wordOf op c len off).extractLsb' 0 8 = op := by
  ext k hk
  interval_cases k <;> simp [wordOf]

theorem wordOf_ctx : (wordOf op c len off).extractLsb' 8 3 = c := by
  ext k hk
  interval_cases k <;> simp [wordOf]

theorem wordOf_len : (wordOf op c len off).extractLsb' 16 16 = len := by
  ext k hk
  interval_cases k <;> simp [wordOf]

theorem wordOf_off : (wordOf op c len off).extractLsb' 32 16 = off := by
  ext k hk
  interval_cases k <;> simp [wordOf]

/-- Format W compares the opcode and the reserved bits (R84). -/
theorem wordOf_mask_w : wordOf op c len off &&& Format.w.mask = op.setWidth 64 := by
  ext k hk
  interval_cases k <;> simp [wordOf, Format.mask]

/-- Format C also compares LEN and OFF (R83). -/
theorem wordOf_mask_c : wordOf op c 0 0 &&& Format.c.mask = op.setWidth 64 := by
  ext k hk
  interval_cases k <;> simp [wordOf, Format.mask]

/-- Format N compares the whole word (R82). -/
theorem wordOf_mask_n : wordOf op 0 0 0 &&& Format.n.mask = op.setWidth 64 := by
  ext k hk
  interval_cases k <;> simp [wordOf, Format.mask]

end fields

/-- A word that format W's mask accepts is assembled from its fields. -/
theorem eq_wordOf_w {w : Word} {op : BitVec 8} (h : w &&& Format.w.mask = op.setWidth 64) :
    w = wordOf op (w.extractLsb' 8 3) (w.extractLsb' 16 16) (w.extractLsb' 32 16) := by
  ext k hk
  have := congrArg (fun v : Word => v.getLsbD k) h
  interval_cases k <;> simp [wordOf, Format.mask] at this ⊢ <;> exact this

/-- A word that format C's mask accepts is assembled from its OP and CTX. -/
theorem eq_wordOf_c {w : Word} {op : BitVec 8} (h : w &&& Format.c.mask = op.setWidth 64) :
    w = wordOf op (w.extractLsb' 8 3) 0 0 := by
  ext k hk
  have := congrArg (fun v : Word => v.getLsbD k) h
  interval_cases k <;> simp [wordOf, Format.mask] at this ⊢ <;> exact this

/-- A word that format N's mask accepts is its OP. -/
theorem eq_wordOf_n {w : Word} {op : BitVec 8} (h : w &&& Format.n.mask = op.setWidth 64) :
    w = wordOf op 0 0 0 := by
  ext k hk
  have := congrArg (fun v : Word => v.getLsbD k) h
  interval_cases k <;> simp [wordOf, Format.mask] at this ⊢ <;> exact this

/-- The opcode map read from a row's OP byte. -/
theorem Op.ofCode_code (o : Op) : Op.ofCode o.code = some o := by cases o <;> rfl

/-- The opcode map read to a row's OP byte. -/
theorem Op.code_of_ofCode {b : BitVec 8} {o : Op} (h : Op.ofCode b = some o) : o.code = b := by
  have := List.find?_some h
  simpa using this

/-- The encoder on operands that fit their fields. -/
theorem encode_eq_wordOf {i : Instr} {c : BitVec 3} {len off : BitVec 16}
    (hc : i.ctx = c.toNat) (hl : i.len = len.toNat) (ho : i.off = off.toNat) :
    encode i = wordOf i.op.code c len off := by
  simp [encode, wordOf, hc, hl, ho, BitVec.ofNat_toNat]

end Sys2Proof
end

