-- ==== Sys2Proof/Laws/State.lean ====
section
/-! SUPPORT. One lemma per field per named update of State, so that no proof unfolds a record update, and the
same for `record` and `raise`. -/

namespace Sys2Proof.Machine

section complete
variable (s : State)

@[simp] theorem State.complete_phase : (s.complete).phase = .idle := rfl
@[simp] theorem State.complete_latch : (s.complete).latch = s.latch := rfl
@[simp] theorem State.complete_arg0 : (s.complete).arg0 = s.arg0 := rfl
@[simp] theorem State.complete_arg1 : (s.complete).arg1 = s.arg1 := rfl
@[simp] theorem State.complete_res0 : (s.complete).res0 = s.res0 := rfl
@[simp] theorem State.complete_res1 : (s.complete).res1 = s.res1 := rfl
@[simp] theorem State.complete_iva0 : (s.complete).iva0 = s.iva0 := rfl
@[simp] theorem State.complete_iva1 : (s.complete).iva1 = s.iva1 := rfl
@[simp] theorem State.complete_keyedA : (s.complete).keyedA = s.keyedA := rfl
@[simp] theorem State.complete_secb : (s.complete).secb = s.secb := rfl
@[simp] theorem State.complete_secb2 : (s.complete).secb2 = s.secb2 := rfl
@[simp] theorem State.complete_keyedB : (s.complete).keyedB = s.keyedB := rfl
@[simp] theorem State.complete_entbuf : (s.complete).entbuf = s.entbuf := rfl
@[simp] theorem State.complete_entFull : (s.complete).entFull = s.entFull := rfl
@[simp] theorem State.complete_err : (s.complete).err = s.err := rfl
@[simp] theorem State.complete_errMulti : (s.complete).errMulti = s.errMulti := rfl
@[simp] theorem State.complete_errCode : (s.complete).errCode = s.errCode := rfl
@[simp] theorem State.complete_gen : (s.complete).gen = s.gen := rfl
@[simp] theorem State.complete_ctxs : (s.complete).ctxs = s.ctxs := rfl
@[simp] theorem State.complete_msgbufSize : (s.complete).msgbufSize = s.msgbufSize := rfl
@[simp] theorem State.complete_msgbuf : (s.complete).msgbuf = s.msgbuf := rfl
@[simp] theorem State.complete_stamp : (s.complete).stamp = s.stamp := rfl
@[simp] theorem State.complete_program : (s.complete).program = s.program := rfl
@[simp] theorem State.complete_turns : (s.complete).turns = s.turns := rfl
@[simp] theorem State.complete_history : (s.complete).history = s.history := rfl

end complete

section accept
variable (s : State) (i : Instr)

@[simp] theorem State.accept_phase : (s.accept i).phase = .exec := rfl
@[simp] theorem State.accept_latch : (s.accept i).latch = ⟨i, s.arg0, s.arg1⟩ := rfl
@[simp] theorem State.accept_arg0 : (s.accept i).arg0 = s.arg0 := rfl
@[simp] theorem State.accept_arg1 : (s.accept i).arg1 = s.arg1 := rfl
@[simp] theorem State.accept_res0 : (s.accept i).res0 = s.res0 := rfl
@[simp] theorem State.accept_res1 : (s.accept i).res1 = s.res1 := rfl
@[simp] theorem State.accept_iva0 : (s.accept i).iva0 = s.iva0 := rfl
@[simp] theorem State.accept_iva1 : (s.accept i).iva1 = s.iva1 := rfl
@[simp] theorem State.accept_keyedA : (s.accept i).keyedA = s.keyedA := rfl
@[simp] theorem State.accept_secb : (s.accept i).secb = s.secb := rfl
@[simp] theorem State.accept_secb2 : (s.accept i).secb2 = s.secb2 := rfl
@[simp] theorem State.accept_keyedB : (s.accept i).keyedB = s.keyedB := rfl
@[simp] theorem State.accept_entbuf : (s.accept i).entbuf = s.entbuf := rfl
@[simp] theorem State.accept_entFull : (s.accept i).entFull = s.entFull := rfl
@[simp] theorem State.accept_err : (s.accept i).err = s.err := rfl
@[simp] theorem State.accept_errMulti : (s.accept i).errMulti = s.errMulti := rfl
@[simp] theorem State.accept_errCode : (s.accept i).errCode = s.errCode := rfl
@[simp] theorem State.accept_gen : (s.accept i).gen = s.gen := rfl
@[simp] theorem State.accept_ctxs : (s.accept i).ctxs = s.ctxs := rfl
@[simp] theorem State.accept_msgbufSize : (s.accept i).msgbufSize = s.msgbufSize := rfl
@[simp] theorem State.accept_msgbuf : (s.accept i).msgbuf = s.msgbuf := rfl
@[simp] theorem State.accept_stamp : (s.accept i).stamp = s.stamp := rfl
@[simp] theorem State.accept_program : (s.accept i).program = s.program := rfl
@[simp] theorem State.accept_turns : (s.accept i).turns = s.turns := rfl
@[simp] theorem State.accept_history : (s.accept i).history = s.history := rfl

end accept

section setSlot
variable (s : State) (c : Nat) (x : Ctx)

@[simp] theorem State.setSlot_phase : (s.setSlot c x).phase = s.phase := rfl
@[simp] theorem State.setSlot_latch : (s.setSlot c x).latch = s.latch := rfl
@[simp] theorem State.setSlot_arg0 : (s.setSlot c x).arg0 = s.arg0 := rfl
@[simp] theorem State.setSlot_arg1 : (s.setSlot c x).arg1 = s.arg1 := rfl
@[simp] theorem State.setSlot_res0 : (s.setSlot c x).res0 = s.res0 := rfl
@[simp] theorem State.setSlot_res1 : (s.setSlot c x).res1 = s.res1 := rfl
@[simp] theorem State.setSlot_iva0 : (s.setSlot c x).iva0 = s.iva0 := rfl
@[simp] theorem State.setSlot_iva1 : (s.setSlot c x).iva1 = s.iva1 := rfl
@[simp] theorem State.setSlot_keyedA : (s.setSlot c x).keyedA = s.keyedA := rfl
@[simp] theorem State.setSlot_secb : (s.setSlot c x).secb = s.secb := rfl
@[simp] theorem State.setSlot_secb2 : (s.setSlot c x).secb2 = s.secb2 := rfl
@[simp] theorem State.setSlot_keyedB : (s.setSlot c x).keyedB = s.keyedB := rfl
@[simp] theorem State.setSlot_entbuf : (s.setSlot c x).entbuf = s.entbuf := rfl
@[simp] theorem State.setSlot_entFull : (s.setSlot c x).entFull = s.entFull := rfl
@[simp] theorem State.setSlot_err : (s.setSlot c x).err = s.err := rfl
@[simp] theorem State.setSlot_errMulti : (s.setSlot c x).errMulti = s.errMulti := rfl
@[simp] theorem State.setSlot_errCode : (s.setSlot c x).errCode = s.errCode := rfl
@[simp] theorem State.setSlot_gen : (s.setSlot c x).gen = s.gen := rfl
@[simp] theorem State.setSlot_ctxs : (s.setSlot c x).ctxs = s.ctxs.set c x := rfl
@[simp] theorem State.setSlot_msgbufSize : (s.setSlot c x).msgbufSize = s.msgbufSize := rfl
@[simp] theorem State.setSlot_msgbuf : (s.setSlot c x).msgbuf = s.msgbuf := rfl
@[simp] theorem State.setSlot_stamp : (s.setSlot c x).stamp = s.stamp := rfl
@[simp] theorem State.setSlot_program : (s.setSlot c x).program = s.program := rfl
@[simp] theorem State.setSlot_turns : (s.setSlot c x).turns = s.turns := rfl
@[simp] theorem State.setSlot_history : (s.setSlot c x).history = s.history := rfl

end setSlot

section advance
variable (s : State)

@[simp] theorem State.advance_phase : (s.advance).phase = s.phase := rfl
@[simp] theorem State.advance_latch : (s.advance).latch = s.latch := rfl
@[simp] theorem State.advance_arg0 : (s.advance).arg0 = s.arg0 := rfl
@[simp] theorem State.advance_arg1 : (s.advance).arg1 = s.arg1 := rfl
@[simp] theorem State.advance_res0 : (s.advance).res0 = s.res0 := rfl
@[simp] theorem State.advance_res1 : (s.advance).res1 = s.res1 := rfl
@[simp] theorem State.advance_iva0 : (s.advance).iva0 = s.iva0 := rfl
@[simp] theorem State.advance_iva1 : (s.advance).iva1 = s.iva1 := rfl
@[simp] theorem State.advance_keyedA : (s.advance).keyedA = s.keyedA := rfl
@[simp] theorem State.advance_secb : (s.advance).secb = s.secb := rfl
@[simp] theorem State.advance_secb2 : (s.advance).secb2 = s.secb2 := rfl
@[simp] theorem State.advance_keyedB : (s.advance).keyedB = s.keyedB := rfl
@[simp] theorem State.advance_entbuf : (s.advance).entbuf = s.entbuf := rfl
@[simp] theorem State.advance_entFull : (s.advance).entFull = s.entFull := rfl
@[simp] theorem State.advance_err : (s.advance).err = s.err := rfl
@[simp] theorem State.advance_errMulti : (s.advance).errMulti = s.errMulti := rfl
@[simp] theorem State.advance_errCode : (s.advance).errCode = s.errCode := rfl
@[simp] theorem State.advance_gen : (s.advance).gen = s.gen := rfl
@[simp] theorem State.advance_ctxs : (s.advance).ctxs = s.ctxs := rfl
@[simp] theorem State.advance_msgbufSize : (s.advance).msgbufSize = s.msgbufSize := rfl
@[simp] theorem State.advance_msgbuf : (s.advance).msgbuf = s.msgbuf := rfl
@[simp] theorem State.advance_stamp : (s.advance).stamp = s.stamp + 1 := rfl
@[simp] theorem State.advance_program : (s.advance).program = s.program := rfl
@[simp] theorem State.advance_turns : (s.advance).turns = s.turns := rfl
@[simp] theorem State.advance_history : (s.advance).history = s.history := rfl

end advance

section observe
variable (s : State) (off : BitVec 17) (n : Width) (v : Word)

@[simp] theorem State.observe_phase : (s.observe off n v).phase = s.phase := rfl
@[simp] theorem State.observe_latch : (s.observe off n v).latch = s.latch := rfl
@[simp] theorem State.observe_arg0 : (s.observe off n v).arg0 = s.arg0 := rfl
@[simp] theorem State.observe_arg1 : (s.observe off n v).arg1 = s.arg1 := rfl
@[simp] theorem State.observe_res0 : (s.observe off n v).res0 = s.res0 := rfl
@[simp] theorem State.observe_res1 : (s.observe off n v).res1 = s.res1 := rfl
@[simp] theorem State.observe_iva0 : (s.observe off n v).iva0 = s.iva0 := rfl
@[simp] theorem State.observe_iva1 : (s.observe off n v).iva1 = s.iva1 := rfl
@[simp] theorem State.observe_keyedA : (s.observe off n v).keyedA = s.keyedA := rfl
@[simp] theorem State.observe_secb : (s.observe off n v).secb = s.secb := rfl
@[simp] theorem State.observe_secb2 : (s.observe off n v).secb2 = s.secb2 := rfl
@[simp] theorem State.observe_keyedB : (s.observe off n v).keyedB = s.keyedB := rfl
@[simp] theorem State.observe_entbuf : (s.observe off n v).entbuf = s.entbuf := rfl
@[simp] theorem State.observe_entFull : (s.observe off n v).entFull = s.entFull := rfl
@[simp] theorem State.observe_err : (s.observe off n v).err = s.err := rfl
@[simp] theorem State.observe_errMulti : (s.observe off n v).errMulti = s.errMulti := rfl
@[simp] theorem State.observe_errCode : (s.observe off n v).errCode = s.errCode := rfl
@[simp] theorem State.observe_gen : (s.observe off n v).gen = s.gen := rfl
@[simp] theorem State.observe_ctxs : (s.observe off n v).ctxs = s.ctxs := rfl
@[simp] theorem State.observe_msgbufSize : (s.observe off n v).msgbufSize = s.msgbufSize := rfl
@[simp] theorem State.observe_msgbuf : (s.observe off n v).msgbuf = s.msgbuf := rfl
@[simp] theorem State.observe_stamp : (s.observe off n v).stamp = s.stamp := rfl
@[simp] theorem State.observe_program : (s.observe off n v).program = s.program := rfl
@[simp] theorem State.observe_turns : (s.observe off n v).turns = s.turns := rfl
@[simp] theorem State.observe_history : (s.observe off n v).history = .returned off n v :: s.history := rfl

end observe

section clearErr
variable (s : State)

@[simp] theorem State.clearErr_phase : (s.clearErr).phase = s.phase := rfl
@[simp] theorem State.clearErr_latch : (s.clearErr).latch = s.latch := rfl
@[simp] theorem State.clearErr_arg0 : (s.clearErr).arg0 = s.arg0 := rfl
@[simp] theorem State.clearErr_arg1 : (s.clearErr).arg1 = s.arg1 := rfl
@[simp] theorem State.clearErr_res0 : (s.clearErr).res0 = s.res0 := rfl
@[simp] theorem State.clearErr_res1 : (s.clearErr).res1 = s.res1 := rfl
@[simp] theorem State.clearErr_iva0 : (s.clearErr).iva0 = s.iva0 := rfl
@[simp] theorem State.clearErr_iva1 : (s.clearErr).iva1 = s.iva1 := rfl
@[simp] theorem State.clearErr_keyedA : (s.clearErr).keyedA = s.keyedA := rfl
@[simp] theorem State.clearErr_secb : (s.clearErr).secb = s.secb := rfl
@[simp] theorem State.clearErr_secb2 : (s.clearErr).secb2 = s.secb2 := rfl
@[simp] theorem State.clearErr_keyedB : (s.clearErr).keyedB = s.keyedB := rfl
@[simp] theorem State.clearErr_entbuf : (s.clearErr).entbuf = s.entbuf := rfl
@[simp] theorem State.clearErr_entFull : (s.clearErr).entFull = s.entFull := rfl
@[simp] theorem State.clearErr_err : (s.clearErr).err = false := rfl
@[simp] theorem State.clearErr_errMulti : (s.clearErr).errMulti = false := rfl
@[simp] theorem State.clearErr_errCode : (s.clearErr).errCode = 0 := rfl
@[simp] theorem State.clearErr_gen : (s.clearErr).gen = s.gen := rfl
@[simp] theorem State.clearErr_ctxs : (s.clearErr).ctxs = s.ctxs := rfl
@[simp] theorem State.clearErr_msgbufSize : (s.clearErr).msgbufSize = s.msgbufSize := rfl
@[simp] theorem State.clearErr_msgbuf : (s.clearErr).msgbuf = s.msgbuf := rfl
@[simp] theorem State.clearErr_stamp : (s.clearErr).stamp = s.stamp := rfl
@[simp] theorem State.clearErr_program : (s.clearErr).program = s.program := rfl
@[simp] theorem State.clearErr_turns : (s.clearErr).turns = s.turns := rfl
@[simp] theorem State.clearErr_history : (s.clearErr).history = s.history := rfl

end clearErr

section memWrite
variable (s : State) (i n : Nat) (data : Word)

@[simp] theorem State.memWrite_phase : (s.memWrite i n data).phase = s.phase := rfl
@[simp] theorem State.memWrite_latch : (s.memWrite i n data).latch = s.latch := rfl
@[simp] theorem State.memWrite_arg0 : (s.memWrite i n data).arg0 = s.arg0 := rfl
@[simp] theorem State.memWrite_arg1 : (s.memWrite i n data).arg1 = s.arg1 := rfl
@[simp] theorem State.memWrite_res0 : (s.memWrite i n data).res0 = s.res0 := rfl
@[simp] theorem State.memWrite_res1 : (s.memWrite i n data).res1 = s.res1 := rfl
@[simp] theorem State.memWrite_iva0 : (s.memWrite i n data).iva0 = s.iva0 := rfl
@[simp] theorem State.memWrite_iva1 : (s.memWrite i n data).iva1 = s.iva1 := rfl
@[simp] theorem State.memWrite_keyedA : (s.memWrite i n data).keyedA = s.keyedA := rfl
@[simp] theorem State.memWrite_secb : (s.memWrite i n data).secb = s.secb := rfl
@[simp] theorem State.memWrite_secb2 : (s.memWrite i n data).secb2 = s.secb2 := rfl
@[simp] theorem State.memWrite_keyedB : (s.memWrite i n data).keyedB = s.keyedB := rfl
@[simp] theorem State.memWrite_entbuf : (s.memWrite i n data).entbuf = s.entbuf := rfl
@[simp] theorem State.memWrite_entFull : (s.memWrite i n data).entFull = s.entFull := rfl
@[simp] theorem State.memWrite_err : (s.memWrite i n data).err = s.err := rfl
@[simp] theorem State.memWrite_errMulti : (s.memWrite i n data).errMulti = s.errMulti := rfl
@[simp] theorem State.memWrite_errCode : (s.memWrite i n data).errCode = s.errCode := rfl
@[simp] theorem State.memWrite_gen : (s.memWrite i n data).gen = s.gen := rfl
@[simp] theorem State.memWrite_ctxs : (s.memWrite i n data).ctxs = s.ctxs := rfl
@[simp] theorem State.memWrite_msgbufSize : (s.memWrite i n data).msgbufSize = s.msgbufSize := rfl
@[simp] theorem State.memWrite_msgbuf : (s.memWrite i n data).msgbuf = Memory.store i data s.msgbuf n := rfl
@[simp] theorem State.memWrite_stamp : (s.memWrite i n data).stamp = s.stamp := rfl
@[simp] theorem State.memWrite_program : (s.memWrite i n data).program = s.program := rfl
@[simp] theorem State.memWrite_turns : (s.memWrite i n data).turns = s.turns := rfl
@[simp] theorem State.memWrite_history : (s.memWrite i n data).history = s.history := rfl

end memWrite

section record
variable (s : State) (e : ErrCode) (a : Access)

@[simp] theorem State.record_phase : (s.record e).phase = s.phase := by
  unfold State.record; split <;> rfl
@[simp] theorem State.record_latch : (s.record e).latch = s.latch := by
  unfold State.record; split <;> rfl
@[simp] theorem State.record_arg0 : (s.record e).arg0 = s.arg0 := by
  unfold State.record; split <;> rfl
@[simp] theorem State.record_arg1 : (s.record e).arg1 = s.arg1 := by
  unfold State.record; split <;> rfl
@[simp] theorem State.record_res0 : (s.record e).res0 = s.res0 := by
  unfold State.record; split <;> rfl
@[simp] theorem State.record_res1 : (s.record e).res1 = s.res1 := by
  unfold State.record; split <;> rfl
@[simp] theorem State.record_iva0 : (s.record e).iva0 = s.iva0 := by
  unfold State.record; split <;> rfl
@[simp] theorem State.record_iva1 : (s.record e).iva1 = s.iva1 := by
  unfold State.record; split <;> rfl
@[simp] theorem State.record_keyedA : (s.record e).keyedA = s.keyedA := by
  unfold State.record; split <;> rfl
@[simp] theorem State.record_secb : (s.record e).secb = s.secb := by
  unfold State.record; split <;> rfl
@[simp] theorem State.record_secb2 : (s.record e).secb2 = s.secb2 := by
  unfold State.record; split <;> rfl
@[simp] theorem State.record_keyedB : (s.record e).keyedB = s.keyedB := by
  unfold State.record; split <;> rfl
@[simp] theorem State.record_entbuf : (s.record e).entbuf = s.entbuf := by
  unfold State.record; split <;> rfl
@[simp] theorem State.record_entFull : (s.record e).entFull = s.entFull := by
  unfold State.record; split <;> rfl
@[simp] theorem State.record_gen : (s.record e).gen = s.gen := by
  unfold State.record; split <;> rfl
@[simp] theorem State.record_ctxs : (s.record e).ctxs = s.ctxs := by
  unfold State.record; split <;> rfl
@[simp] theorem State.record_msgbufSize : (s.record e).msgbufSize = s.msgbufSize := by
  unfold State.record; split <;> rfl
@[simp] theorem State.record_msgbuf : (s.record e).msgbuf = s.msgbuf := by
  unfold State.record; split <;> rfl
@[simp] theorem State.record_stamp : (s.record e).stamp = s.stamp := by
  unfold State.record; split <;> rfl
@[simp] theorem State.record_program : (s.record e).program = s.program := by
  unfold State.record; split <;> rfl
@[simp] theorem State.record_turns : (s.record e).turns = s.turns := by
  unfold State.record; split <;> rfl
@[simp] theorem State.record_history : (s.record e).history = s.history := by
  unfold State.record; split <;> rfl
@[simp] theorem State.record_err : (s.record e).err = true := by
  unfold State.record; split <;> simp [*]
@[simp] theorem State.record_errMulti : (s.record e).errMulti = (s.err || s.errMulti) := by
  unfold State.record; split <;> simp [*]
@[simp] theorem State.record_errCode : (s.record e).errCode = if s.err then s.errCode else e.code := by
  unfold State.record; split <;> rfl

@[simp] theorem State.raise_phase : (s.raise e a).phase = s.phase := s.record_phase e
@[simp] theorem State.raise_latch : (s.raise e a).latch = s.latch := s.record_latch e
@[simp] theorem State.raise_arg0 : (s.raise e a).arg0 = s.arg0 := s.record_arg0 e
@[simp] theorem State.raise_arg1 : (s.raise e a).arg1 = s.arg1 := s.record_arg1 e
@[simp] theorem State.raise_res0 : (s.raise e a).res0 = s.res0 := s.record_res0 e
@[simp] theorem State.raise_res1 : (s.raise e a).res1 = s.res1 := s.record_res1 e
@[simp] theorem State.raise_iva0 : (s.raise e a).iva0 = s.iva0 := s.record_iva0 e
@[simp] theorem State.raise_iva1 : (s.raise e a).iva1 = s.iva1 := s.record_iva1 e
@[simp] theorem State.raise_keyedA : (s.raise e a).keyedA = s.keyedA := s.record_keyedA e
@[simp] theorem State.raise_secb : (s.raise e a).secb = s.secb := s.record_secb e
@[simp] theorem State.raise_secb2 : (s.raise e a).secb2 = s.secb2 := s.record_secb2 e
@[simp] theorem State.raise_keyedB : (s.raise e a).keyedB = s.keyedB := s.record_keyedB e
@[simp] theorem State.raise_entbuf : (s.raise e a).entbuf = s.entbuf := s.record_entbuf e
@[simp] theorem State.raise_entFull : (s.raise e a).entFull = s.entFull := s.record_entFull e
@[simp] theorem State.raise_err : (s.raise e a).err = true := s.record_err e
@[simp] theorem State.raise_errMulti : (s.raise e a).errMulti = (s.err || s.errMulti) := s.record_errMulti e
@[simp] theorem State.raise_errCode : (s.raise e a).errCode = if s.err then s.errCode else e.code :=
  s.record_errCode e
@[simp] theorem State.raise_gen : (s.raise e a).gen = s.gen := s.record_gen e
@[simp] theorem State.raise_ctxs : (s.raise e a).ctxs = s.ctxs := s.record_ctxs e
@[simp] theorem State.raise_msgbufSize : (s.raise e a).msgbufSize = s.msgbufSize := s.record_msgbufSize e
@[simp] theorem State.raise_msgbuf : (s.raise e a).msgbuf = s.msgbuf := s.record_msgbuf e
@[simp] theorem State.raise_stamp : (s.raise e a).stamp = s.stamp := s.record_stamp e
@[simp] theorem State.raise_program : (s.raise e a).program = s.program := s.record_program e
@[simp] theorem State.raise_turns : (s.raise e a).turns = s.turns := s.record_turns e
@[simp] theorem State.raise_history : (s.raise e a).history = .raised e a :: s.history := rfl

end record

end Sys2Proof.Machine
end

