-- ==== Sys2Proof/Laws/Memory.lean ====
section
/-! SUPPORT. MSGBUF: what each memory operation lists, and that each keeps the canonical form
(20_memory.md R64 to R67). -/

namespace Sys2Proof.Machine

@[simp] theorem Memory.read_nil (a : Nat) : Memory.read [] a = none := rfl

theorem Memory.read_cons (b : Nat) (x : Byte) (m : List Host.Cell) (a : Nat) :
    Memory.read ((b, x) :: m) a = if a = b then some x else Memory.read m a := by
  unfold Memory.read
  rw [List.lookup_cons]
  by_cases h : a = b
  · simp [h]
  · rw [if_neg h, beq_false_of_ne h]

/-- A byte reads as written. -/
@[simp] theorem Memory.read_write_self (a : Nat) (v : Byte) (m : List Host.Cell) :
    Memory.read (Memory.write a v m) a = some v := by
  induction m with
  | nil => simp [Memory.write, Memory.read_cons]
  | cons cell m ih =>
    obtain ⟨b, x⟩ := cell
    simp only [Memory.write]
    split
    · simp [Memory.read_cons]
    · split
      · simp [Memory.read_cons]
      · rename_i h
        simp [Memory.read_cons, h, ih]

/-- A write leaves every other byte alone. -/
theorem Memory.read_write_ne {a b : Nat} (h : b ≠ a) (v : Byte) (m : List Host.Cell) :
    Memory.read (Memory.write a v m) b = Memory.read m b := by
  induction m with
  | nil => simp [Memory.write, Memory.read_cons, h]
  | cons cell m ih =>
    obtain ⟨d, x⟩ := cell
    simp only [Memory.write]
    split
    · simp [Memory.read_cons, h]
    · split
      · rename_i had
        subst had
        simp [Memory.read_cons, h]
      · simp [Memory.read_cons, ih]

/-- Every cell a write lists is the one written or one listed before. -/
theorem Memory.mem_write {a : Nat} {v : Byte} {m : List Host.Cell} {cell : Host.Cell}
    (h : cell ∈ Memory.write a v m) : cell = (a, v) ∨ cell ∈ m := by
  induction m with
  | nil => simpa [Memory.write] using h
  | cons d m ih =>
    obtain ⟨b, x⟩ := d
    simp only [Memory.write] at h
    split at h
    · simpa using h
    · split at h
      · rcases List.mem_cons.mp h with h | h
        · exact .inl h
        · exact .inr (List.mem_cons_of_mem _ h)
      · rcases List.mem_cons.mp h with h | h
        · exact .inr (by simp [h])
        · exact (ih h).imp_right (List.mem_cons_of_mem _)

/-- A write keeps the canonical form. -/
theorem Memory.write_wf {a : Nat} {v : Byte} {m : List Host.Cell} (h : Memory.wf m) :
    Memory.wf (Memory.write a v m) := by
  induction m with
  | nil => simp [Memory.write, Memory.wf]
  | cons d m ih =>
    obtain ⟨b, x⟩ := d
    simp only [Memory.wf, List.map_cons, List.pairwise_cons] at h ih ⊢
    simp only [Memory.write]
    split
    · rename_i hab
      simp only [List.map_cons, List.pairwise_cons, List.mem_cons, forall_eq_or_imp]
      exact ⟨⟨hab, fun y hy => lt_trans hab (h.1 y hy)⟩, h⟩
    · split
      · rename_i _ hab
        subst hab
        simpa using h
      · rename_i h1 h2
        simp only [List.map_cons, List.pairwise_cons]
        refine ⟨fun y hy => ?_, ih h.2⟩
        obtain ⟨cell, hc, rfl⟩ := List.mem_map.mp hy
        rcases Memory.mem_write hc with rfl | hc
        · show b < a
          omega
        · exact h.1 _ (List.mem_map_of_mem hc)

/-- A store keeps the canonical form. -/
theorem Memory.store_wf {i : Nat} {data : Word} {m : List Host.Cell} (h : Memory.wf m) (n : Nat) :
    Memory.wf (Memory.store i data m n) := by
  induction n with
  | zero => exact h
  | succ n ih => exact Memory.write_wf ih

/-- Byte `j` of the data is listed at `i + j` (R64). -/
theorem Memory.read_store {i : Nat} {data : Word} {m : List Host.Cell} {n j : Nat} (h : j < n) :
    Memory.read (Memory.store i data m n) (i + j) = some (byteOf data j) := by
  induction n with
  | zero => omega
  | succ n ih =>
    by_cases hj : j = n
    · subst hj
      simp [Memory.store]
    · rw [Memory.store, Memory.read_write_ne (by omega)]
      exact ih (by omega)

/-- A store leaves every byte outside its own alone (R64). -/
theorem Memory.read_store_outside {i : Nat} {data : Word} {m : List Host.Cell} {n a : Nat}
    (h : a < i ∨ i + n ≤ a) : Memory.read (Memory.store i data m n) a = Memory.read m a := by
  induction n with
  | zero => rfl
  | succ n ih =>
    rw [Memory.store, Memory.read_write_ne (by omega)]
    exact ih (by omega)

/-- Every cell a store lists is one listed before or one of the bytes stored. -/
theorem Memory.mem_store {i : Nat} {data : Word} {m : List Host.Cell} {n : Nat} {cell : Host.Cell}
    (h : cell ∈ Memory.store i data m n) : cell ∈ m ∨ (i ≤ cell.1 ∧ cell.1 < i + n) := by
  induction n with
  | zero => exact .inl h
  | succ n ih =>
    rcases Memory.mem_write h with rfl | h
    · exact .inr ⟨by simp, by simp⟩
    · rcases ih h with h | h
      · exact .inl h
      · exact .inr ⟨h.1, by omega⟩

/-- What a byte reads as depends on MSGBUF and the stamp alone. -/
theorem State.byteAt_congr {s t : State} (hm : t.msgbuf = s.msgbuf) (hs : t.stamp = s.stamp) (a : Nat) :
    t.byteAt a = s.byteAt a := by
  simp [State.byteAt, hm, hs]

/-- A stored byte reads as stored. -/
theorem State.byteAt_memWrite {s : State} {i n j : Nat} {data : Word} (h : j < n) :
    (s.memWrite i n data).byteAt (i + j) = byteOf data j := by
  simp [State.byteAt, Memory.read_store h]

/-- A byte outside a store reads as before. -/
theorem State.byteAt_memWrite_outside {s : State} {i n a : Nat} {data : Word} (h : a < i ∨ i + n ≤ a) :
    (s.memWrite i n data).byteAt a = s.byteAt a := by
  simp [State.byteAt, Memory.read_store_outside h]

@[simp] theorem State.memRead_length (s : State) (off n : Nat) : (s.memRead off n).length = n := by
  simp [State.memRead]

theorem State.memRead_getElem {s : State} {off n j : Nat} (h : j < (s.memRead off n).length) :
    (s.memRead off n)[j] = s.byteAt (off + j) := by
  simp [State.memRead]

end Sys2Proof.Machine
end

