-- ==== Sys2Proof/Laws/Command.lean ====
section
/-! SUPPORT. What the shared operations of a command answer (60_exceptions.md R221, 70_reset_and_hazards.md
R253): one inversion per operation, and what the two parts of a command are. -/

namespace Sys2Proof.Machine

/-- A completion on a slot that answers a next state found the slot. -/
theorem withSlot_next {c : Nat} {s t : State} {k : Ctx → Result} (h : withSlot c s k = .next t) :
    ∃ x, s.ctxs[c]? = some x ∧ k x = .next t := by
  unfold withSlot at h
  split at h
  · exact ⟨_, ‹_›, h⟩
  · cases h

theorem withSlot_some {c : Nat} {s : State} {x : Ctx} (k : Ctx → Result) (h : s.ctxs[c]? = some x) :
    withSlot c s k = k x := by
  simp [withSlot, h]

/-- A completion on a slice that answers a next state had the slice inside MSGBUF. -/
theorem withSlice_next {off len : Nat} {s t : State} {k : List Byte → Result}
    (h : withSlice off len s k = .next t) : off + len ≤ s.msgbufSize ∧ k (s.memRead off len) = .next t := by
  unfold withSlice at h
  split at h
  · exact ⟨‹_›, h⟩
  · cases h

theorem withSlice_inside {off len : Nat} {s : State} (k : List Byte → Result) (h : off + len ≤ s.msgbufSize) :
    withSlice off len s k = k (s.memRead off len) := if_pos h

/-- An entropy word is taken exactly where ENT_FULL = 1 (40_seedgen.md R101). -/
theorem State.takeEntropy_full {s : State} (h : s.entFull = true) :
    s.takeEntropy = some (s.entbuf, { s with entFull := false }) := if_pos h

theorem State.takeEntropy_empty {s : State} (h : s.entFull = false) : s.takeEntropy = none :=
  if_neg (by simp [h])

/-- No check rejects a command exactly where none of the four applies (60_exceptions.md R221). -/
theorem rejection_eq_none {i : Instr} {s : State} : rejection i s = none ↔
    slotMissing i s = false ∧ sliceTooLong i s = false ∧ unkeyed i s = false ∧ wrongTag i s = false := by
  unfold rejection
  split_ifs <;> simp_all

/-- The checks read the slots, MSGBUF_SIZE and the keyed flags alone. -/
theorem rejection_congr {i : Instr} {s t : State} (hc : t.ctxs = s.ctxs) (hm : t.msgbufSize = s.msgbufSize)
    (ha : t.keyedA = s.keyedA) (hb : t.keyedB = s.keyedB) : rejection i t = rejection i s := by
  have h1 : slotMissing i t = slotMissing i s := by unfold slotMissing State.nctx; rw [hc]
  have h2 : sliceTooLong i t = sliceTooLong i s := by unfold sliceTooLong; rw [hm]
  have h3 : unkeyed i t = unkeyed i s := by cases i <;> simp [unkeyed, ha, hb]
  have h4 : wrongTag i t = wrongTag i s := by unfold wrongTag State.tagOf; rw [hc]
  unfold rejection
  rw [h1, h2, h3, h4]

/-- The issue of a decoded command rejects it with one error or accepts it. -/
theorem State.issueDecoded_cases (i : Instr) (s : State) :
    (∃ e, rejection i s = some e ∧ s.issueDecoded i = s.raise e (cmdWrite i)) ∨
      (rejection i s = none ∧ s.issueDecoded i = s.accept i) := by
  unfold State.issueDecoded
  cases rejection i s <;> simp

@[simp] theorem command_idle {i : Instr} {k : State → Result} {s : State} (h : s.phase = .idle) :
    command i k s = .next (s.issueDecoded i) := by
  simp [command, h]

@[simp] theorem command_exec {i : Instr} {k : State → Result} {s : State} (h : s.phase = .exec) :
    command i k s = k s := by
  simp [command, h]

end Sys2Proof.Machine
end

