-- ==== Sys2Proof/Laws/Exec.lean ====
section
/-! SUPPORT. What `exec` can do, said once, and that the checks of an accepted command give its
completion the slot and the slice it needs (60_exceptions.md R223). -/

namespace Sys2Proof.Machine

/-- While PHASE = IDLE every command but CLRERR is issued (R221). -/
theorem exec_idle {i : Instr} {s : State} (hi : i ≠ .clrerr) (h : s.phase = .idle) :
    exec i s = .next (s.issueDecoded i) := by
  cases i <;> first
    | exact command_idle h
    | exact absurd rfl hi

/-- Everything a command can do while PHASE = EXEC: one case per outcome of its completion. -/
inductive Completes (s : State) : Instr → State → Prop where
  | seedaHolds (h : s.entFull = false) : Completes s .seeda s
  | seeda (h : s.entFull = true) : Completes s .seeda
      (State.complete { s with
        entFull := false
        iva0 := (generateIv Config.sgInit s.entbuf).word0
        iva1 := (generateIv Config.sgInit s.entbuf).word1
        gen := (generateIv Config.sgInit s.entbuf).gen
        keyedA := true })
  | loadiva : Completes s .loadiva
      (State.complete { s with iva0 := s.latch.arg0, iva1 := s.latch.arg1, keyedA := true })
  | seedbHolds (h : s.entFull = false) : Completes s .seedb s
  | seedbDiscards (h : s.entFull = true) (hb : balanced s.entbuf = false) :
      Completes s .seedb { s with entFull := false }
  | seedb (h : s.entFull = true) (hb : balanced s.entbuf = true) : Completes s .seedb
      (State.complete { s with
        entFull := false, secb := s.entbuf, secb2 := deriveSecret2 s.entbuf, keyedB := true })
  | loadsecb : Completes s .loadsecb
      (State.complete { s with
        secb := s.latch.arg0, secb2 := deriveSecret2 s.latch.arg0, keyedB := true })
  | newa {c : Nat} {x : Ctx} (h : s.ctxs[c]? = some x) :
      Completes s (.newa c) (s.setSlot c (freshA s.iva0 s.iva1)).complete
  | writea {c off len : Nat} {x : Ctx} (h : s.ctxs[c]? = some x) (hl : off + len ≤ s.msgbufSize) :
      Completes s (.writea c off len) (s.setSlot c (writtenA x (s.memRead off len))).complete
  | fina {c : Nat} {x : Ctx} (h : s.ctxs[c]? = some x) :
      Completes s (.fina c) (State.complete { s with res0 := finalizeA x.w0 x.w1 })
  | newb {c : Nat} {x : Ctx} (h : s.ctxs[c]? = some x) :
      Completes s (.newb c) (s.setSlot c (freshB s.secb s.secb2)).complete
  | writeb {c off len : Nat} {x : Ctx} (h : s.ctxs[c]? = some x) (hl : off + len ≤ s.msgbufSize) :
      Completes s (.writeb c off len) (s.setSlot c (writtenB x (s.memRead off len))).complete
  | finb {c : Nat} {x : Ctx} (h : s.ctxs[c]? = some x) :
      Completes s (.finb c) (State.complete { s with res0 := x.w0 })
  | fin2b {c : Nat} {x : Ctx} (h : s.ctxs[c]? = some x) :
      Completes s (.fin2b c) (State.complete { s with res0 := x.w0, res1 := x.w1 })
  | fin2a {c : Nat} {x : Ctx} (h : s.ctxs[c]? = some x) : Completes s (.fin2a c)
      (State.complete { s with res0 := finalizeA x.w0 x.w1, res1 := Sys2Proof.Machine.dual (finalizeA x.w0 x.w1) })
  | dual : Completes s .dual
      (State.complete { s with res0 := s.latch.arg0, res1 := Sys2Proof.Machine.dual s.latch.arg0 })
  | clrerr : Completes s .clrerr (s.raise .busy (cmdWrite .clrerr))

/-- While PHASE = EXEC a command that answers a next state does one of those things. -/
theorem exec_completes {i : Instr} {s t : State} (hp : s.phase = .exec) (h : exec i s = .next t) :
    Completes s i t := by
  cases i with
  | seeda =>
    simp only [exec, execSeeda, command_exec hp, completeSeeda] at h
    cases hf : s.entFull
    · rw [s.takeEntropy_empty hf] at h
      cases h
      exact .seedaHolds hf
    · rw [s.takeEntropy_full hf] at h
      cases h
      exact .seeda hf
  | seedb =>
    simp only [exec, execSeedb, command_exec hp, completeSeedb] at h
    cases hf : s.entFull
    · rw [s.takeEntropy_empty hf] at h
      cases h
      exact .seedbHolds hf
    · rw [s.takeEntropy_full hf] at h
      simp only at h
      split at h <;> cases h
      · exact .seedb hf ‹_›
      · exact .seedbDiscards hf (by simp_all)
  | loadiva =>
    simp only [exec, execLoadiva, command_exec hp, completeLoadiva] at h
    cases h
    exact .loadiva
  | loadsecb =>
    simp only [exec, execLoadsecb, command_exec hp, completeLoadsecb] at h
    cases h
    exact .loadsecb
  | newa c =>
    simp only [exec, execNewa, command_exec hp, completeNewa] at h
    obtain ⟨x, hx, h⟩ := withSlot_next h
    cases h
    exact .newa hx
  | writea c off len =>
    simp only [exec, execWritea, command_exec hp, completeWritea] at h
    obtain ⟨x, hx, h⟩ := withSlot_next h
    obtain ⟨hl, h⟩ := withSlice_next h
    cases h
    exact .writea hx hl
  | fina c =>
    simp only [exec, execFina, command_exec hp, completeFina] at h
    obtain ⟨x, hx, h⟩ := withSlot_next h
    cases h
    exact .fina hx
  | newb c =>
    simp only [exec, execNewb, command_exec hp, completeNewb] at h
    obtain ⟨x, hx, h⟩ := withSlot_next h
    cases h
    exact .newb hx
  | writeb c off len =>
    simp only [exec, execWriteb, command_exec hp, completeWriteb] at h
    obtain ⟨x, hx, h⟩ := withSlot_next h
    obtain ⟨hl, h⟩ := withSlice_next h
    cases h
    exact .writeb hx hl
  | finb c =>
    simp only [exec, execFinb, command_exec hp, completeFinb] at h
    obtain ⟨x, hx, h⟩ := withSlot_next h
    cases h
    exact .finb hx
  | fin2b c =>
    simp only [exec, execFin2b, command_exec hp, completeFin2b] at h
    obtain ⟨x, hx, h⟩ := withSlot_next h
    cases h
    exact .fin2b hx
  | fin2a c =>
    simp only [exec, execFin2a, command_exec hp, completeFin2a] at h
    obtain ⟨x, hx, h⟩ := withSlot_next h
    cases h
    exact .fin2a hx
  | dual =>
    simp only [exec, execDual, command_exec hp, completeDual] at h
    cases h
    exact .dual
  | clrerr =>
    simp only [exec, execClrerr, hp] at h
    cases h
    exact .clrerr

/-- Everything a command can do while PHASE = IDLE: CLRERR clears the record, any other command is rejected
with one error or accepted. -/
theorem exec_issues {i : Instr} {s t : State} (hp : s.phase = .idle) (h : exec i s = .next t) :
    (i = .clrerr ∧ t = s.clearErr) ∨
      (i ≠ .clrerr ∧ ∃ e, rejection i s = some e ∧ t = s.raise e (cmdWrite i)) ∨
      (i ≠ .clrerr ∧ rejection i s = none ∧ t = s.accept i) := by
  by_cases hi : i = .clrerr
  · subst hi
    simp only [exec, execClrerr, hp] at h
    cases h
    exact .inl ⟨rfl, rfl⟩
  · rw [exec_idle hi hp] at h
    cases h
    rcases State.issueDecoded_cases i s with ⟨e, he, h⟩ | ⟨he, h⟩
    · exact .inr (.inl ⟨hi, e, he, h⟩)
    · exact .inr (.inr ⟨hi, he, h⟩)

/-- What none of the fourteen commands touches (10_state.md R38, 20_memory.md R66). -/
structure Untouched (s t : State) : Prop where
  arg0 : t.arg0 = s.arg0
  arg1 : t.arg1 = s.arg1
  entbuf : t.entbuf = s.entbuf
  msgbufSize : t.msgbufSize = s.msgbufSize
  msgbuf : t.msgbuf = s.msgbuf
  stamp : t.stamp = s.stamp
  program : t.program = s.program
  turns : t.turns = s.turns
  slots : t.ctxs.length = s.ctxs.length

/-- Whatever a command does, it leaves the operand registers, ENTBUF, MSGBUF and the model's schedule. -/
theorem exec_untouched {i : Instr} {s t : State} (h : exec i s = .next t) : Untouched s t := by
  cases hp : s.phase with
  | idle =>
    rcases exec_issues hp h with ⟨-, rfl⟩ | ⟨-, e, -, rfl⟩ | ⟨-, -, rfl⟩ <;> constructor <;> simp
  | exec => cases exec_completes hp h <;> constructor <;> simp

/-- A command no check rejects has its slot (R213). -/
theorem slot_of_rejection {i : Instr} {s : State} {c : Nat} (h : rejection i s = none)
    (hc : slotOf i = some c) : ∃ x, s.ctxs[c]? = some x := by
  have := (rejection_eq_none.mp h).1
  simp only [slotMissing, hc, State.nctx] at this
  exact ⟨_, List.getElem?_eq_getElem (not_le.mp (of_decide_eq_false this))⟩

/-- A WRITE command no check rejects has its slice inside MSGBUF (R214). -/
theorem slice_of_rejection {i : Instr} {s : State} {e : Nat} (h : rejection i s = none)
    (he : sliceEnd i = some e) : e ≤ s.msgbufSize := by
  have := (rejection_eq_none.mp h).2.1
  simpa [sliceTooLong, he] using this

/-- A command no check rejects finds the tag it requires in its slot (R216). -/
theorem tag_of_rejection {i : Instr} {s : State} {c : Nat} {x : Ctx} {t : Tag} (h : rejection i s = none)
    (hc : slotOf i = some c) (ht : tagFor i = some t) (hx : s.ctxs[c]? = some x) : x.tag = t := by
  have := (rejection_eq_none.mp h).2.2.2
  simpa [wrongTag, hc, ht, State.tagOf, hx] using this

end Sys2Proof.Machine
end

