-- ==== Sys2Proof/Laws/Bus.lean ====
section
/-! SUPPORT. What a host access and a step can do, said once (20_memory.md R61 to R71, 60_exceptions.md R221,
R222). -/

namespace Sys2Proof.Machine

/-- The checks of an access read NCTX and MSGBUF_SIZE alone. -/
theorem State.target_congr {s t : State} (hc : t.ctxs.length = s.ctxs.length)
    (hm : t.msgbufSize = s.msgbufSize) (off n : Nat) : t.target off n = s.target off n := by
  simp [State.target, State.nctx, hc, hm]

@[simp] theorem State.target_advance (s : State) (off n : Nat) : s.advance.target off n = s.target off n := rfl

/-- The fixed registers are at their offsets whatever NCTX is (10_state.md R20). -/
theorem regAt_fixed (nctx : Nat) {r : Reg}
    (h : r ∈ [Reg.id, .param, .status, .cmd, .entropy, .arg0, .arg1, .res0, .res1, .iva0, .iva1, .secb, .secb2]) :
    regAt nctx r.offset = some r := by
  simp only [List.mem_cons, List.not_mem_nil, or_false] at h
  rcases h with rfl | rfl | rfl | rfl | rfl | rfl | rfl | rfl | rfl | rfl | rfl | rfl | rfl <;> rfl

/-- An aligned 8-byte access to an offset of the register region reaches the register there. -/
theorem State.target_reg {s : State} {off : Nat} {r : Reg} (h : regAt s.nctx off = some r)
    (hlt : off < 0x10000) (h8 : off % 8 = 0) : s.target off 8 = some (.reg r) := by
  simp [State.target, msgbufBase, hlt, h8, h]

/-- An aligned 8-byte access reaches each fixed register (R20). -/
theorem State.target_fixed (s : State) {r : Reg}
    (h : r ∈ [Reg.id, .param, .status, .cmd, .entropy, .arg0, .arg1, .res0, .res1, .iva0, .iva1, .secb, .secb2]) :
    s.target r.offset 8 = some (.reg r) := by
  refine State.target_reg (regAt_fixed _ h) ?_ ?_ <;>
  · simp only [List.mem_cons, List.not_mem_nil, or_false] at h
    rcases h with rfl | rfl | rfl | rfl | rfl | rfl | rfl | rfl | rfl | rfl | rfl | rfl | rfl <;> decide

/-- What an access of the register region reaches is the register whose offset it names. -/
theorem State.offset_of_target {s : State} {off n : Nat} {r : Reg} (h : s.target off n = some (.reg r)) :
    r.offset = off ∧ n = 8 ∧ off < 0x10000 := by
  unfold State.target msgbufBase at h
  split_ifs at h with h1 h2 h3
  · obtain ⟨r', hr, hrr⟩ := Option.map_eq_some_iff.mp h
    cases hrr
    exact ⟨by simpa using List.find?_some hr, h2.1, h1⟩
  · cases h

/-- What an access of MSGBUF reaches is inside it (20_memory.md R64). -/
theorem State.buf_of_target {s : State} {off n i : Nat} (h : s.target off n = some (.buf i)) :
    off = 0x10000 + i ∧ i % n = 0 ∧ i + n ≤ s.msgbufSize := by
  unfold State.target msgbufBase at h
  split_ifs at h with h1 h2 h3
  · obtain ⟨r', -, hrr⟩ := Option.map_eq_some_iff.mp h
    cases hrr
  · simp only [Option.some.injEq, Target.buf.injEq] at h
    subst h
    exact ⟨by omega, h3.1, h3.2⟩

/-- A legal MSGBUF access reaches its first byte (R64). -/
theorem State.target_buf {s : State} {n i : Nat} (h : i % n = 0) (hl : i + n ≤ s.msgbufSize) :
    s.target (0x10000 + i) n = some (.buf i) := by
  simp [State.target, msgbufBase, h, hl]

theorem hostWrite_reg {s : State} {off : BitVec 17} {n : Width} {r : Reg} (d : Word)
    (h : s.target off.toNat n.bytes = some (.reg r)) : hostWrite off n d s = writeReg off d r s := by
  simp only [hostWrite, h]

theorem hostWrite_buf {s : State} {off : BitVec 17} {n : Width} {i : Nat} (d : Word)
    (h : s.target off.toNat n.bytes = some (.buf i)) : hostWrite off n d s =
      if s.busy then .next (s.raise .busy (.write off n d)) else .next (s.memWrite i n.bytes d) := by
  simp only [hostWrite, h]

theorem hostWrite_none {s : State} {off : BitVec 17} {n : Width} (d : Word)
    (h : s.target off.toNat n.bytes = none) :
    hostWrite off n d s = .next (s.raise .access (.write off n d)) := by
  simp only [hostWrite, h]

theorem State.hostRead_reg {s : State} {off : BitVec 17} {n : Width} {r : Reg}
    (h : s.target off.toNat n.bytes = some (.reg r)) : s.hostRead off n = s.observe off n (s.readReg r) := by
  simp only [State.hostRead, h]

theorem State.hostRead_buf {s : State} {off : BitVec 17} {n : Width} {i : Nat}
    (h : s.target off.toNat n.bytes = some (.buf i)) :
    s.hostRead off n = s.observe off n (le (s.memRead i n.bytes)) := by
  simp only [State.hostRead, h]

theorem State.hostRead_none {s : State} {off : BitVec 17} {n : Width}
    (h : s.target off.toNat n.bytes = none) :
    s.hostRead off n = (s.raise .access (.read off n)).observe off n 0 := by
  simp only [State.hostRead, h]

/-- A CMD write is the issue of its word (10_state.md R29). -/
theorem hostWrite_cmd (w : Word) (s : State) : hostWrite cmdOff .w8 w s = issue w s :=
  hostWrite_reg (off := cmdOff) (n := .w8) (r := .cmd) w (s.target_fixed (r := .cmd) (by simp))

theorem issue_busy {w : Word} {s : State} (h : s.phase = .exec) :
    issue w s = .next (s.raise .busy (.write cmdOff .w8 w)) := by
  simp [issue, State.busy, h]

theorem issue_illegal {w : Word} {s : State} {e : DecodeError} (h : s.phase = .idle)
    (hd : decode w = .error e) : issue w s = .next (s.raise .illegal (.write cmdOff .w8 w)) := by
  simp [issue, State.busy, h, hd]

theorem issue_decoded {w : Word} {s : State} {i : Instr} (h : s.phase = .idle) (hd : decode w = .ok i) :
    issue w s = exec i s := by
  simp [issue, State.busy, h, hd]

/-- Everything a host access can do. -/
inductive AccessDoes (s : State) : Access → State → Prop where
  | reads {off : BitVec 17} {n : Width} (v : Word) : AccessDoes s (.read off n) (s.observe off n v)
  | readRejected {off : BitVec 17} {n : Width} :
      AccessDoes s (.read off n) ((s.raise .access (.read off n)).observe off n 0)
  /-- dropped and recorded; with E_BUSY only a CMD write or a legal MSGBUF write -/
  | writeRejected {off : BitVec 17} {n : Width} {d : Word} (e : ErrCode)
      (h : e = .busy → s.phase = .exec ∧
        ((off = cmdOff ∧ n = .w8) ∨ ∃ i, s.target off.toNat n.bytes = some (.buf i))) :
      AccessDoes s (.write off n d) (s.advance.raise e (.write off n d))
  | arg0 {off : BitVec 17} {n : Width} {d : Word} : AccessDoes s (.write off n d) { s.advance with arg0 := d }
  | arg1 {off : BitVec 17} {n : Width} {d : Word} : AccessDoes s (.write off n d) { s.advance with arg1 := d }
  | entropy {off : BitVec 17} {n : Width} {d : Word} (h : s.entFull = false) :
      AccessDoes s (.write off n d) { s.advance with entbuf := d, entFull := true }
  | stores {off : BitVec 17} {n : Width} {d : Word} {i : Nat} (hp : s.phase = .idle)
      (h : s.target off.toNat n.bytes = some (.buf i)) :
      AccessDoes s (.write off n d) (s.advance.memWrite i n.bytes d)
  | issues {off : BitVec 17} {n : Width} {d : Word} {i : Instr} {t : State} (hp : s.phase = .idle)
      (hd : decode d = .ok i) (h : exec i s.advance = .next t) : AccessDoes s (.write off n d) t

/-- The width of 8 bytes has one name. -/
theorem Width.eq_w8 {n : Width} (h : n.bytes = 8) : n = .w8 := by
  cases n <;> simp [Width.bytes] at h ⊢

/-- A host access that answers a next state does one of those things. -/
theorem access_does {a : Access} {s t : State} (h : access a s = .next t) : AccessDoes s a t := by
  cases a with
  | read off n =>
    simp only [access, Host.Outcome.next.injEq] at h
    subst h
    rcases htg : s.target off.toNat n.bytes with _ | ⟨r | i⟩
    · rw [State.hostRead_none htg]
      exact .readRejected
    · rw [State.hostRead_reg htg]
      exact .reads _
    · rw [State.hostRead_buf htg]
      exact .reads _
  | write off n d =>
    simp only [access] at h
    rcases htg : s.advance.target off.toNat n.bytes with _ | ⟨r | i⟩
    · rw [hostWrite_none d htg] at h
      cases h
      exact .writeRejected _ (by simp)
    · rw [hostWrite_reg d htg] at h
      obtain ⟨hoff, hn, -⟩ := State.offset_of_target htg
      obtain rfl := Width.eq_w8 hn
      cases r with
      | cmd =>
        have hcmd : off = cmdOff := BitVec.eq_of_toNat_eq hoff.symm
        subst hcmd
        simp only [writeReg] at h
        cases hp : s.phase with
        | exec =>
          rw [issue_busy (by simpa using hp)] at h
          cases h
          exact .writeRejected _ fun _ => ⟨hp, .inl ⟨rfl, rfl⟩⟩
        | idle =>
          cases hd : decode d with
          | error e =>
            rw [issue_illegal (by simpa using hp) hd] at h
            cases h
            exact .writeRejected _ (by simp)
          | ok i =>
            rw [issue_decoded (by simpa using hp) hd] at h
            exact .issues hp hd h
      | entropy =>
        simp only [writeReg, State.writeEntropy] at h
        cases hf : s.entFull <;> simp [hf] at h <;> subst h
        · exact .entropy hf
        · exact .writeRejected _ (by simp)
      | arg0 =>
        cases h
        exact .arg0
      | arg1 =>
        cases h
        exact .arg1
      | _ =>
        cases h
        exact .writeRejected _ (by simp)
    · rw [hostWrite_buf d htg] at h
      cases hp : s.phase with
      | exec =>
        simp only [State.busy, State.advance_phase, hp, beq_self_eq_true, if_true, Host.Outcome.next.injEq] at h
        subst h
        exact .writeRejected _ fun _ => ⟨hp, .inr ⟨i, by simpa using htg⟩⟩
      | idle =>
        have hb : s.advance.busy = false := by simp [State.busy, hp]
        simp only [hb, Bool.false_eq_true, if_false, Host.Outcome.next.injEq] at h
        subst h
        exact .stores hp (by simpa using htg)

/-- The agent that moves next (log entry 1). -/
def State.nextAgent (s : State) : Turn := s.turns.head?.getD s.defaultTurn

/-- A step is the turn of the next agent. -/
theorem step_eq (s : State) : step s = turn s.nextAgent { s with turns := s.turns.tail } := by
  rcases hs : s.turns with _ | ⟨t, ts⟩
  · have : ({ s with turns := [] } : State) = s := by rw [← hs]
    simp [step, nextMove, hs, State.nextAgent, this]
  · simp [step, nextMove, hs, State.nextAgent]

theorem step_cons {s : State} {t : Turn} {ts : List Turn} (h : s.turns = t :: ts) :
    step s = turn t { s with turns := ts } := by
  simp [step, nextMove, h]

theorem step_nil {s : State} (h : s.turns = []) : step s = turn s.defaultTurn s := by
  simp [step, nextMove, h]

/-- The host's next statement is an access. -/
theorem hostTurn_access {s : State} {a : Access} {ps : List Stmt} (h : s.program = .access a :: ps) :
    hostTurn s = access a { s with program := ps } := by
  simp [hostTurn, h]

/-- Everything a step can do: the program has ended, an access, a poll, an engine step, an engine without a
step, a reset. -/
inductive StepDoes (s : State) : State → Prop where
  | hostEnds (ha : s.nextAgent = .host) (hp : s.program = []) : StepDoes s { s with turns := s.turns.tail }
  | accesses (ha : s.nextAgent = .host) {a : Access} {ps : List Stmt} {t : State}
      (hp : s.program = .access a :: ps)
      (h : AccessDoes { s with turns := s.turns.tail, program := ps } a t) : StepDoes s t
  | polls (ha : s.nextAgent = .host) (ps : List Stmt) (v : Word) :
      StepDoes s (State.observe 0x10 .w8 v { s with turns := s.turns.tail, program := ps })
  | engine (ha : s.nextAgent = .engine) (he : s.enabled = true) {t : State}
      (h : exec s.latch.cmd (State.advance { s with turns := s.turns.tail }) = .next t) : StepDoes s t
  | holds (ha : s.nextAgent = .engine) (he : s.enabled = false) : StepDoes s { s with turns := s.turns.tail }
  | resets (ha : s.nextAgent = .reset) :
      StepDoes s (State.doReset (State.advance { s with turns := s.turns.tail }))

/-- STATUS is always readable. -/
theorem State.hostRead_status (s : State) : s.hostRead 0x10 .w8 = s.observe 0x10 .w8 s.status :=
  State.hostRead_reg (off := 0x10) (n := .w8) (r := .status) (s.target_fixed (r := .status) (by simp))

/-- A step that answers a next state does one of those things. -/
theorem step_does {s t : State} (h : step s = .next t) : StepDoes s t := by
  rw [step_eq] at h
  cases ha : s.nextAgent with
  | host =>
    rw [ha] at h
    simp only [turn] at h
    rcases hp : s.program with _ | ⟨st, ps⟩
    · simp only [hostTurn, hp, Host.Outcome.next.injEq] at h
      subst h
      simpa only [hp] using StepDoes.hostEnds ha hp
    · cases st with
      | access a =>
        rw [hostTurn_access (a := a) (ps := ps) (by simpa using hp)] at h
        exact .accesses ha hp (access_does h)
      | wait =>
        simp only [hostTurn, hp, State.poll, State.hostRead_status, Host.Outcome.next.injEq] at h
        subst h
        split
        · have := StepDoes.polls (s := s) ha s.program (State.status { s with turns := s.turns.tail })
          simpa [hp] using this
        · exact .polls ha ps (State.status { s with turns := s.turns.tail })
      | waitent =>
        simp only [hostTurn, hp, State.poll, State.hostRead_status, Host.Outcome.next.injEq] at h
        subst h
        split
        · have := StepDoes.polls (s := s) ha s.program (State.status { s with turns := s.turns.tail })
          simpa [hp] using this
        · exact .polls ha ps (State.status { s with turns := s.turns.tail })
  | engine =>
    rw [ha] at h
    have hen : State.enabled { s with turns := s.turns.tail } = s.enabled := rfl
    simp only [turn, engineTurn, hen] at h
    cases he : s.enabled
    · simp only [he, Bool.false_eq_true, if_false, Host.Outcome.next.injEq] at h
      subst h
      exact .holds ha he
    · simp only [he, if_true] at h
      exact .engine ha he h
  | reset =>
    rw [ha] at h
    simp only [turn, Host.Outcome.next.injEq] at h
    subst h
    exact .resets ha

end Sys2Proof.Machine
end

