-- ==== Sys2Proof/Laws/PerInstr.lean ====
section
/-! SUPPORT. For each command: its assembled word holds its opcode and its operands in the fields R81 gives
them, and passes the mask of its format (30_encoding.md R82 to R85, R92). -/

namespace Sys2Proof.Laws.EncodedFields

/-- The word of a well-formed command holds its OP, CTX, LEN and OFF, and its format's mask leaves the opcode. -/
def Statement (i : Instr) : Prop :=
  i.wf = true →
    fieldOp (encode i) = i.op.code ∧ fieldCtx (encode i) = i.ctx ∧ fieldLen (encode i) = i.len ∧
      fieldOff (encode i) = i.off ∧ encode i &&& i.op.format.mask = i.op.code.setWidth 64

/-- Format N (R82). -/
theorem formatN {i : Instr} (hc : i.ctx = 0) (hl : i.len = 0) (ho : i.off = 0) (hf : i.op.format = .n) :
    Statement i := by
  intro _
  rw [encode_eq_wordOf (c := 0) (len := 0) (off := 0) (by simpa using hc) (by simpa using hl)
    (by simpa using ho), hf]
  exact ⟨wordOf_op .., by simp [fieldCtx, wordOf_ctx, hc], by simp [fieldLen, wordOf_len, hl],
    by simp [fieldOff, wordOf_off, ho], wordOf_mask_n _⟩

/-- Format C (R83). -/
theorem formatC {i : Instr} (h : i.ctx ≤ 7) (hl : i.len = 0) (ho : i.off = 0) (hf : i.op.format = .c) :
    Statement i := by
  intro _
  have hc : i.ctx = (BitVec.ofNat 3 i.ctx).toNat := by rw [BitVec.toNat_ofNat]; omega
  rw [encode_eq_wordOf (len := 0) (off := 0) hc (by simpa using hl) (by simpa using ho), hf]
  exact ⟨wordOf_op .., by rw [fieldCtx, wordOf_ctx, ← hc], by simp [fieldLen, wordOf_len, hl],
    by simp [fieldOff, wordOf_off, ho], wordOf_mask_c _ _⟩

/-- Format W (R84). -/
theorem formatW {i : Instr} (h : i.ctx ≤ 7) (hl : i.len ≤ 65535) (ho : i.off ≤ 65535)
    (hf : i.op.format = .w) : Statement i := by
  intro _
  have hc : i.ctx = (BitVec.ofNat 3 i.ctx).toNat := by rw [BitVec.toNat_ofNat]; omega
  have hl' : i.len = (BitVec.ofNat 16 i.len).toNat := by rw [BitVec.toNat_ofNat]; omega
  have ho' : i.off = (BitVec.ofNat 16 i.off).toNat := by rw [BitVec.toNat_ofNat]; omega
  rw [encode_eq_wordOf hc hl' ho', hf]
  exact ⟨wordOf_op .., by rw [fieldCtx, wordOf_ctx, ← hc], by rw [fieldLen, wordOf_len, ← hl'],
    by rw [fieldOff, wordOf_off, ← ho'], wordOf_mask_w ..⟩

theorem seeda : Statement .seeda := formatN rfl rfl rfl rfl
theorem loadiva : Statement .loadiva := formatN rfl rfl rfl rfl
theorem seedb : Statement .seedb := formatN rfl rfl rfl rfl
theorem loadsecb : Statement .loadsecb := formatN rfl rfl rfl rfl
theorem newa (c : Nat) : Statement (.newa c) := fun h => formatC (of_decide_eq_true h) rfl rfl rfl h
theorem writea (c off len : Nat) : Statement (.writea c off len) := fun h => by
  have h' := h
  simp only [Instr.wf, ctxFits, offFits, lenFits, Bool.and_eq_true, decide_eq_true_eq] at h'
  exact formatW h'.1.1 h'.2 h'.1.2 rfl h
theorem fina (c : Nat) : Statement (.fina c) := fun h => formatC (of_decide_eq_true h) rfl rfl rfl h
theorem newb (c : Nat) : Statement (.newb c) := fun h => formatC (of_decide_eq_true h) rfl rfl rfl h
theorem writeb (c off len : Nat) : Statement (.writeb c off len) := fun h => by
  have h' := h
  simp only [Instr.wf, ctxFits, offFits, lenFits, Bool.and_eq_true, decide_eq_true_eq] at h'
  exact formatW h'.1.1 h'.2 h'.1.2 rfl h
theorem finb (c : Nat) : Statement (.finb c) := fun h => formatC (of_decide_eq_true h) rfl rfl rfl h
theorem fin2b (c : Nat) : Statement (.fin2b c) := fun h => formatC (of_decide_eq_true h) rfl rfl rfl h
theorem fin2a (c : Nat) : Statement (.fin2a c) := fun h => formatC (of_decide_eq_true h) rfl rfl rfl h
theorem dual : Statement .dual := formatN rfl rfl rfl rfl
theorem clrerr : Statement .clrerr := formatN rfl rfl rfl rfl

end Sys2Proof.Laws.EncodedFields
end

