-- ==== Sys2Proof/Tests/Slice0.lean ====
section
/-! SUPPORT. Tests on fixed values, every expected value from spec/ (the rule or the vector is named at each),
and for every statement with hypotheses a witness that meets them. -/

namespace Sys2Proof.Tests

open Sys2Proof.Machine Sys2Proof.Claims

-- Helpers

/-- The result is a next state that passes the check. -/
def after (r : Result) (p : State → Bool) : Bool :=
  match r with
  | .next t => p t
  | .fault _ => false
  | .refused _ => false

/-- The IV of the spec's examples (IV8 of 95_test_vectors.md). -/
def slotA : Ctx := ⟨.a, 0xdf900294d8f554a5, 0x170865df4b3201fc, 0, 0⟩

/-- A fresh slot under the example secret (R116, R169). -/
def slotB : Ctx := ⟨.b, 0xda942042e4dd58b5, 0xda942042e4dd58b5, 0xdf900294d8f554a5, 0xd646c6286ae1bcd7⟩

/-- Bytes as MSGBUF cells from address `i` on. -/
def cells (i : Nat) : List Byte → List Host.Cell
  | [] => []
  | b :: rest => (i, b) :: cells (i + 1) rest

/-- "hello world!" at 0, the bytes 49 00 at 0x20, the bytes 5a 01 at 0x30. -/
def buffer : List Host.Cell :=
  cells 0 [0x68, 0x65, 0x6c, 0x6c, 0x6f, 0x20, 0x77, 0x6f, 0x72, 0x6c, 0x64, 0x21] ++
    cells 0x20 [0x49, 0x00] ++ cells 0x30 [0x5a, 0x01]

/-- A keyed engine with a hasher of each variant, idle. -/
def ready : State :=
  { State.reset with
    arg0 := 0xdf900294d8f554a5, arg1 := 0x170865df4b3201fc
    keyedA := true, iva0 := 0xdf900294d8f554a5, iva1 := 0x170865df4b3201fc
    keyedB := true, secb := 0xdf900294d8f554a5, secb2 := 0xd646c6286ae1bcd7
    ctxs := [slotA, slotB, Ctx.free, Ctx.free], msgbuf := buffer }

/-- The same engine with a command in execution, its latched operands those of ARG0 and ARG1. -/
def running (i : Instr) : State :=
  { ready with phase := .exec, latch := ⟨i, ready.arg0, ready.arg1⟩ }

/-- With an entropy word waiting. -/
def withWord (e : Word) (s : State) : State := { s with entbuf := e, entFull := true }

/-- With the next moves and statements given. -/
def scheduled (ts : List Turn) (ps : List Stmt) (s : State) : State := { s with turns := ts, program := ps }

-- Well-formedness (R81, R91): one ill-formed command per check

theorem test_wf_refuses_ctx_8 : ctxFits 8 = false ∧ (Instr.newa 8).wf = false := by decide
theorem test_wf_refuses_off_65536 : offFits 65536 = false ∧ (Instr.writea 0 65536 0).wf = false := by decide
theorem test_wf_refuses_len_65536 : lenFits 65536 = false ∧ (Instr.writeb 0 0 65536).wf = false := by decide
theorem test_wf_admits_the_limits : (Instr.writea 7 65535 65535).wf = true := by decide

-- Decoding: each row's word, fields laid out as R81 to R84 give them

theorem test_decode_seeda : decode 0x0000000000000001 = .ok .seeda := by decide
theorem test_decode_loadiva : decode 0x0000000000000002 = .ok .loadiva := by decide
theorem test_decode_seedb : decode 0x0000000000000003 = .ok .seedb := by decide
theorem test_decode_loadsecb : decode 0x0000000000000004 = .ok .loadsecb := by decide
theorem test_decode_newa : decode 0x0000000000000710 = .ok (.newa 7) := by decide
theorem test_decode_writea : decode 0x00000FFA00100011 = .ok (.writea 0 4090 16) := by decide
theorem test_decode_fina : decode 0x0000000000000112 = .ok (.fina 1) := by decide
theorem test_decode_newb : decode 0x0000000000000320 = .ok (.newb 3) := by decide
theorem test_decode_writeb : decode 0x0000002000030321 = .ok (.writeb 3 0x20 3) := by decide
theorem test_decode_finb : decode 0x0000000000000222 = .ok (.finb 2) := by decide
theorem test_decode_fin2b : decode 0x0000000000000323 = .ok (.fin2b 3) := by decide
theorem test_decode_fin2a : decode 0x0000000000000130 = .ok (.fin2a 1) := by decide
theorem test_decode_dual : decode 0x0000000000000031 = .ok .dual := by decide
theorem test_decode_clrerr : decode 0x000000000000007F = .ok .clrerr := by decide

/-- R89: the all-zero word, a reserved opcode, and one must-be-zero bit of each format. -/
theorem test_decode_refuses :
    decode 0 = .error (.reservedOpcode 0) ∧ decode 0x13 = .error (.reservedOpcode 0x13) ∧
    decode 0x17F = .error (.mustBeZero .clrerr) ∧ decode 0x0000000000010010 = .error (.mustBeZero .newa) ∧
    decode 0x0000000000000811 = .error (.mustBeZero .writea) ∧
    decode 0x8000000000000021 = .error (.mustBeZero .writeb) := by decide

theorem test_decode_table_word :
    decodeTableWord 64 0x0000002000030321 = some (.writeb 3 0x20 3) ∧ decodeTableWord 64 0 = none := by decide

-- The commands' completions, on the spec's worked examples

/-- R113: with the example SG_INIT (1, 2, 3, 4) and e = 0. -/
theorem test_generate_iv_example :
    (generateIv ⟨1, 2, 3, 4⟩ 0).word0 = 0x8ade0f20f5c601a6 ∧
    (generateIv ⟨1, 2, 3, 4⟩ 0).word1 = 0x24ea8f92586ff0c3 := by decide +kernel

/-- R113: STATUS written by SEEDA. -/
theorem test_seeda_status :
    after (exec .seeda (withWord 0 (running .seeda))) (fun t => t.status == 0x18) = true := by decide

/-- R114. -/
theorem test_loadiva :
    after (exec .loadiva { running .loadiva with iva0 := 0, iva1 := 0, keyedA := false })
      (fun t => t.iva0 == 0xdf900294d8f554a5 && t.iva1 == 0x170865df4b3201fc && t.keyedA) = true := by decide

/-- R115: the word 0 is discarded. -/
theorem test_seedb_discards :
    after (exec .seedb (withWord 0 (running .seedb))) (fun t => t.status == 0x1B && t.secb == ready.secb) = true := by
  decide

/-- R115: a balanced word is taken. -/
theorem test_seedb_takes :
    after (exec .seedb (withWord 0x0123456789abcdef (running .seedb)))
      (fun t => t.secb == 0x0123456789abcdef && t.secb2 == 0x9a07cc7df774e1c4 && t.status == 0x18) = true := by
  decide

/-- R116. -/
theorem test_loadsecb :
    after (exec .loadsecb { running .loadsecb with secb := 0, secb2 := 0 })
      (fun t => t.secb == 0xdf900294d8f554a5 && t.secb2 == 0xd646c6286ae1bcd7) = true := by decide

/-- R139. -/
theorem test_newa :
    after (exec (.newa 2) (running (.newa 2))) (fun t => t.ctxs == [slotA, slotB, slotA, Ctx.free]) = true := by
  decide

/-- R140: "hello world!". -/
theorem test_writea :
    after (exec (.writea 0 0 12) (running (.writea 0 0 12)))
      (fun t => t.ctxs[0]? == some ⟨.a, 0x706b8f76b4d8da7c, 0x21f7d38b76849542, 0, 0⟩) = true := by decide

/-- R141. -/
theorem test_fina :
    after (exec (.fina 0) { running (.fina 0) with res1 := 7 })
      (fun t => t.res0 == 0x952dee75c0dd2d46 && t.res1 == 7 && t.ctxs == ready.ctxs) = true := by decide

/-- R169. -/
theorem test_newb :
    after (exec (.newb 0) (running (.newb 0))) (fun t => t.ctxs == [slotB, slotB, Ctx.free, Ctx.free]) = true := by
  decide

/-- R170: the empty slice still updates and guards. -/
theorem test_writeb_empty :
    after (exec (.writeb 1 0 0) (running (.writeb 1 0 0)))
      (fun t => t.ctxs[1]? ==
        some ⟨.b, 0x8540592bdcc7d30e, 0xf36ea16242731e3d, 0xdf900294d8f554a5, 0xd646c6286ae1bcd7⟩) = true := by
  decide

/-- R170: the bytes 49 00, where the guard fires. -/
theorem test_writeb_guarded :
    after (exec (.writeb 1 0x20 2) (running (.writeb 1 0x20 2)))
      (fun t => t.ctxs[1]? ==
        some ⟨.b, 0x99c4421f73af421a, 0xe598eb3631594301, 0xdf900294d8f554a5, 0xd646c6286ae1bcd7⟩) = true := by
  decide

/-- R171. -/
theorem test_finb :
    after (exec (.finb 1) (running (.finb 1)))
      (fun t => t.res0 == 0xda942042e4dd58b5 && t.res1 == 0 && t.ctxs == ready.ctxs) = true := by decide

/-- R168, R172: a hasher never written returns (K_B, K_B). -/
theorem test_fin2b :
    after (exec (.fin2b 1) (running (.fin2b 1)))
      (fun t => t.res0 == 0xda942042e4dd58b5 && t.res1 == 0xda942042e4dd58b5) = true := by decide

/-- R192: the message 5a 01, where the mixer changes the low byte. -/
theorem test_fin2a :
    after (exec (.fin2a 0) { running (.fin2a 0) with ctxs := [writtenA slotA [0x5a, 0x01]] })
      (fun t => t.res0 == 0x81e2f34b3fb99800 && t.res1 == 0x81e2f34b3fb99801) = true := by decide

/-- R193. -/
theorem test_dual :
    after (exec .dual { running .dual with latch := ⟨.dual, 0xffffffffffffff00, 0⟩ })
      (fun t => t.res0 == 0xffffffffffffff00 && t.res1 == 0xffffffffffffff01) = true := by decide

/-- R200: the record clears and BUSY stays 0. -/
theorem test_clrerr :
    after (exec .clrerr { ready with err := true, errMulti := true, errCode := 4 })
      (fun t => t.status == 0x18) = true := by decide

-- Steps, on the programs of 95_test_vectors.md

/-- P4, statement 1: `newa 0` after reset, STATUS 0x420. -/
theorem test_step_unkeyed :
    after (step (State.reset.withFetchWord 64 0x10)) (fun t => t.status == 0x420) = true := by decide

/-- P4, statement 8: `writea 0, 4090, 16` after reset, STATUS 0x320. -/
theorem test_step_range :
    after (step (State.reset.withFetchWord 64 0x00000FFA00100011)) (fun t => t.status == 0x320) = true := by decide

/-- P3, first statement: `seedb` after reset, STATUS 0x3. -/
theorem test_step_seedb_holds :
    after (step (State.reset.withFetchWord 64 0x3)) (fun t => t.status == 0x3) = true := by decide

/-- P4, statement 6: `st32 0x028, 1`, STATUS 0x820, ARG0 stays 0. -/
theorem test_step_access :
    after (step (scheduled [.host] [.access (.write 0x28 .w4 1)] State.reset))
      (fun t => t.status == 0x820 && t.arg0 == 0) = true := by decide

/-- P4, statement 16: `ent 6` while 5 waits, STATUS 0x724. -/
theorem test_step_entropy_overflow :
    after (step (scheduled [.host] [Asm.st64 .entropy 6] (withWord 5 State.reset)))
      (fun t => t.status == 0x724 && t.entbuf == 5) = true := by decide

/-- R77, R65: a mixed-width read sees the bytes of "hello wo" (P2). -/
theorem test_step_reads_msgbuf :
    after (step (scheduled [.host] [.access (.read 0x10000 .w8)] ready))
      (fun t => t.history == [.returned 0x10000 .w8 0x6f77206f6c6c6568]) = true := by decide

/-- P6: a reset abandons the holding SEEDB. -/
theorem test_step_reset :
    (running .seedb).status = 0x1B ∧
    after (step (scheduled [.reset] [] (running .seedb)))
      (fun t => t.status == 0 && t.secb == 0 && t.msgbuf.isEmpty && t.ctxs == List.replicate 4 Ctx.free) = true := by
  decide

-- Witnesses: every statement's hypotheses are met, each clause at a boundary of its range

theorem test_witness_DecodeUndoesEncode :
    (Instr.writea 7 65535 65535).wf = true ∧ (Instr.newb 7).wf = true ∧ Instr.seeda.wf = true := by decide

theorem test_witness_EncodeUndoesDecode :
    decode 0x0000FFFFFFFF0711 = .ok (.writea 7 65535 65535) ∧ decode 0x31 = .ok .dual := by decide

theorem test_witness_ReservedWordsAreIllegal :
    (reservedOp ((0x00 : Word).extractLsb' 0 8).toNat ∧ reservedOp ((0x0F : Word).extractLsb' 0 8).toNat ∧
      reservedOp ((0x13 : Word).extractLsb' 0 8).toNat ∧ reservedOp ((0x24 : Word).extractLsb' 0 8).toNat ∧
      reservedOp ((0x7E : Word).extractLsb' 0 8).toNat ∧ reservedOp ((0xFF : Word).extractLsb' 0 8).toNat) ∧
    ((0xFFFFFFFFFFFFFFFF, 0x01) ∈ rows ∧ (0x101 : Word).extractLsb' 0 8 = (0x01 : Word).extractLsb' 0 8 ∧
      (0x101 : Word) &&& 0xFFFFFFFFFFFFFFFF ≠ 0x01) ∧
    (decode 0 = .error (.reservedOpcode 0) ∧ State.reset.phase = .idle) ∧ decode 0x710 = .ok (.newa 7) := by
  unfold reservedOp
  refine ⟨⟨?_, ?_, ?_, ?_, ?_, ?_⟩, ?_⟩ <;> decide

theorem test_witness_StepRunsTheDecodedCommand :
    ((scheduled [.host] [Asm.cmd (.newa 3)] ready).turns = [.host] ∧
      (scheduled [.host] [Asm.cmd (.newa 3)] ready).program = [.access (.write 0x18 .w8 0x310)] ∧
      ready.phase = .idle ∧ decode 0x310 = .ok (.newa 3)) ∧
    decode (BitVec.ofNat 64 (0x310 % 2 ^ 64)) = .ok (.newa 3) ∧
    ((scheduled [.engine] [] (running .dual)).turns = [.engine] ∧ (running .dual).phase = .exec ∧
      ((running .dual).latch.cmd = .seeda ∨ (running .dual).latch.cmd = .seedb →
        (running .dual).entFull = true)) ∧
    ((withWord 0 (running .seeda)).turns = [] ∧ (withWord 0 (running .seeda)).phase = .exec ∧
      ((withWord 0 (running .seeda)).latch.cmd = .seeda ∨ (withWord 0 (running .seeda)).latch.cmd = .seedb →
        (withWord 0 (running .seeda)).entFull = true)) := by decide

theorem test_witness_HoldingAndIdleEnginesDoNothing :
    ((scheduled [.engine] [] (running .seedb)).turns = [.engine] ∧ (running .seedb).phase = .exec ∧
      ((running .seedb).latch.cmd = .seeda ∨ (running .seedb).latch.cmd = .seedb) ∧
      (running .seedb).entFull = false) ∧
    ((scheduled [.engine] [] ready).turns = [.engine] ∧ ready.phase = .idle) := by decide

theorem test_witness_PollingLoopsRepeatWhileTheBitIsSet :
    (scheduled [.host] [.wait] (running .dual)).turns = [.host] ∧
    (scheduled [.host] [.wait] (running .dual)).program = [.wait] ∧
    (scheduled [.host] [.waitent] ready).program = [.waitent] := by decide

theorem test_witness_AcceptedCommandRunsInTheNextEngineStep :
    (∀ i ∈ [Instr.writea 0 4080 16, .newa 3, .fin2b 1, .dual],
      (scheduled [.host, .engine] [Asm.cmd i] ready).turns = [.host, .engine] ∧
      (scheduled [.host, .engine] [Asm.cmd i] ready).program = [Asm.cmd i] ∧ ready.phase = .idle ∧
      i.wf = true ∧ i ≠ .clrerr ∧ rejection i (scheduled [.host, .engine] [Asm.cmd i] ready) = none ∧
      (i = .seeda ∨ i = .seedb → ready.entFull = true)) ∧
    (rejection .seeda (withWord 0 ready) = none ∧ (withWord 0 ready).entFull = true) := by decide

theorem test_witness_RaisingAnErrorRecordsIt :
    State.reset.err = false ∧ ({ State.reset with err := true } : State).err = true := by decide

theorem test_witness_RejectedCommandsChangeOnlyTheRecord :
    ∃ t, State.reset.phase = .idle ∧ Instr.newa 0 ≠ .clrerr ∧ exec (.newa 0) State.reset = .next t ∧
      t.phase = .idle := ⟨_, rfl, by decide, rfl, rfl⟩

theorem test_witness_AccessesSpareTheRunningCommand :
    ∃ t, (running .dual).phase = .exec ∧ access (.write 0x28 .w8 1) (running .dual) = .next t := ⟨_, rfl, rfl⟩

theorem test_witness_BusyDropsCmdAndMsgbufWrites :
    (running .dual).phase = .exec ∧
    ((0x10000 ≤ (0x10FF8 : BitVec 17).toNat) ∧ admitted (running .dual) (0x10FF8 : BitVec 17).toNat Width.w8.bytes) ∧
    ∃ t, access (cmdAccess 0x31) (running .dual) = .next t ∧ .raised .busy (cmdAccess 0x31) ∈ t.history :=
  ⟨rfl, ⟨by decide, .inr (by decide)⟩, _, rfl, by decide⟩

theorem test_witness_RegistersReadTheirValues :
    7 < 8 ∧ (State.resetOf 8 65536).ctxs[7]? = some Ctx.free ∧ ready.ctxs[0]? = some slotA := by decide

/-- R20, R37: the last word of slot 3, and no register one slot further. -/
theorem test_register_map : regAt 4 0x1E0 = some (.ctxW3 3) ∧ regAt 4 0x200 = none ∧ regAt 4 0x68 = none := by
  decide

theorem test_witness_IdAndParamAreConstant :
    (State.resetOf 1 8).LegalParams ∧ (State.resetOf 8 65536).LegalParams ∧
    ∃ t, step State.reset = .next t := ⟨by decide, by decide, _, rfl⟩

theorem test_witness_StatusReadsItsFields : (running .seeda).status.getLsbD 1 = true := by decide

theorem test_witness_RegisterWritesFollowTheAccessKind :
    (Reg.id.kind = .ro ∧ exists_ 4 .id ∧ (0x000 : BitVec 17).toNat = Reg.id.offset ∧ Reg.id.offset < 0x10000) ∧
    ((Reg.ctxW3 7).kind = .ro ∧ exists_ (State.resetOf 8 65536).ctxs.length (.ctxW3 7) ∧
      (0x2E0 : BitVec 17).toNat = (Reg.ctxW3 7).offset ∧ (Reg.ctxW3 7).offset < 0x10000) := by
  unfold exists_
  simp [Reg.kind, regSlot, Reg.offset, State.resetOf]

/-- A narrow register access, an unaligned one, the gap above a slot's words (R37), the byte past MSGBUF. -/
theorem test_witness_InadmissibleAccessesAreDropped :
    ∀ p ∈ [((0x28 : BitVec 17), Width.w4), (0x2C, .w8), (0x128, .w8), (0x11000, .w1), (0x10FFC, .w8)],
      ¬ admitted State.reset p.1.toNat p.2.bytes := by
  have h : ∀ r : Reg, exists_ 4 r → r.offset ≠ 0x128 := by
    intro r _
    cases r <;> simp only [Reg.offset] <;> omega
  simp only [List.mem_cons, List.not_mem_nil, or_false, forall_eq_or_imp, forall_eq]
  refine ⟨?_, ?_, ?_, ?_, ?_⟩
  case refine_3 =>
    rintro (⟨-, -, -, r, hr, he⟩ | ⟨h', -⟩)
    · exact h r he hr
    · exact absurd h' (by decide)
  all_goals
    rintro (⟨h1, h2, h3, -⟩ | ⟨h1, h2, h3⟩)
    · revert h1 h2 h3
      decide
    · revert h1 h2 h3
      decide

/-- The last legal doubleword of MSGBUF, idle and busy; the first byte past it. -/
theorem test_witness_MsgbufWritesStoreTheirBytes :
    (0x10FF8 : BitVec 17).toNat = 0x10000 + 4088 ∧
    (4088 % Width.w8.bytes = 0 ∧ 4088 + Width.w8.bytes ≤ ready.msgbufSize) ∧ ready.phase = .idle ∧
    (4088 % Width.w8.bytes = 0 ∧ 4088 + Width.w8.bytes ≤ (running .dual).msgbufSize) ∧
    (running .dual).phase = .exec ∧
    (0x11000 : BitVec 17).toNat = 0x10000 + 4096 ∧
    ¬ (4096 % Width.w1.bytes = 0 ∧ 4096 + Width.w1.bytes ≤ ready.msgbufSize) := by decide

theorem test_witness_MsgbufReadsAssembleTheirBytes :
    (∃ t, exec .dual (running .dual) = .next t) ∧ (0x10FFF : BitVec 17).toNat = 0x10000 + 4095 ∧
    (4095 % Width.w1.bytes = 0 ∧ 4095 + Width.w1.bytes ≤ ready.msgbufSize) ∧
    ¬ (4095 % Width.w2.bytes = 0 ∧ 4095 + Width.w2.bytes ≤ ready.msgbufSize) :=
  ⟨⟨_, rfl⟩, by decide, by decide, by decide⟩

theorem test_witness_MixedWidthsSeeTheSameBytes : 7 < 8 := by decide

theorem test_witness_SeedaKeysVariantA :
    (withWord 0 (running .seeda)).phase = .exec ∧ (withWord 0 (running .seeda)).entFull = true := by decide

/-- R115's boundary words: 24 and 40 ones, 23 and 41. -/
theorem test_witness_SeedbTakesTheFirstBalancedWord :
    (running .seedb).phase = .exec ∧ (withWord 0 (running .seedb)).entFull = true ∧
    (∀ e ∈ [(0x0000000000ffffff : Word), 0x000000ffffffffff], 24 ≤ popcount e ∧ popcount e ≤ 40) ∧
    (∀ e ∈ [(0x00000000007fffff : Word), 0x000001ffffffffff], popcount e < 24 ∨ 40 < popcount e) := by
  simp only [List.mem_cons, List.not_mem_nil, or_false, forall_eq_or_imp, forall_eq]
  decide

theorem test_witness_CommandsOnTheLatchedOperands :
    (running .loadiva).phase = .exec ∧ (running .loadsecb).phase = .exec ∧ (running .dual).phase = .exec := by decide

theorem test_witness_NewCommandsMakeAFreshHasher :
    (running (.newa 3)).phase = .exec ∧ 3 < (running (.newa 3)).ctxs.length ∧
    (running (.newb 0)).phase = .exec ∧ 0 < (running (.newb 0)).ctxs.length := by decide

/-- A slice that ends where MSGBUF does (R214). -/
theorem test_witness_WriteaIngestsItsSlice :
    (running (.writea 0 4080 16)).phase = .exec ∧ (running (.writea 0 4080 16)).ctxs[0]? = some slotA ∧
    4080 + 16 ≤ (running (.writea 0 4080 16)).msgbufSize := by decide

theorem test_witness_FinishCommandsWriteTheDigests :
    (running (.fina 0)).phase = .exec ∧ (running (.fina 0)).ctxs[0]? = some slotA ∧
    (running (.fin2b 1)).ctxs[1]? = some slotB := by decide

/-- An empty slice at the end of MSGBUF (R214). -/
theorem test_witness_WritebIngestsItsSlice :
    (running (.writeb 1 4096 0)).phase = .exec ∧ (running (.writeb 1 4096 0)).ctxs[1]? = some slotB ∧
    4096 + 0 ≤ (running (.writeb 1 4096 0)).msgbufSize := by decide

theorem test_witness_ClrerrClearsTheRecord :
    ready.phase = .idle ∧ (running .dual).phase = .exec ∧ ∃ t, exec .clrerr ready = .next t := ⟨rfl, rfl, _, rfl⟩

theorem test_witness_FactoryCommandsFrame :
    (∃ t, Instr.seeda ∈ [Instr.seeda, .loadiva, .seedb, .loadsecb] ∧
      exec .seeda (withWord 0 (running .seeda)) = .next t) ∧
    (∃ t, Instr.loadiva ∈ [Instr.seeda, .loadiva] ∧ exec .loadiva (running .loadiva) = .next t) ∧
    (∃ t, Instr.seedb ∈ [Instr.seedb, .loadsecb] ∧ exec .seedb ready = .next t) ∧
    ∃ t, Instr.loadsecb ∈ [Instr.loadiva, .loadsecb] ∧ exec .loadsecb (running .loadsecb) = .next t :=
  ⟨⟨_, by decide, rfl⟩, ⟨_, by decide, rfl⟩, ⟨_, by decide, rfl⟩, ⟨_, by decide, rfl⟩⟩

theorem test_witness_SlotCommandsFrame :
    (∃ t, Instr.writea 0 0 12 ∈ [Instr.newa 0, .writea 0 0 12, .newb 0, .writeb 0 0 12] ∧
      exec (.writea 0 0 12) (running (.writea 0 0 12)) = .next t ∧ 1 ≠ 0 ∧
      (running (.writea 0 0 12)).phase = .exec) ∧
    ∃ t, Instr.newb 3 ∈ [Instr.newa 3, .writea 3 0 0, .newb 3, .writeb 3 0 0] ∧
      exec (.newb 3) ready = .next t ∧ ready.phase = .idle :=
  ⟨⟨_, by decide, rfl, by decide, rfl⟩, ⟨_, by decide, rfl, rfl⟩⟩

theorem test_witness_ResultCommandsFrame :
    (∃ t, Instr.fin2a 0 ∈ [Instr.fina 0, .finb 0, .fin2a 0, .fin2b 0, .dual] ∧
      exec (.fin2a 0) (running (.fin2a 0)) = .next t ∧ (running (.fin2a 0)).phase = .exec) ∧
    (∃ t, exec .dual ready = .next t ∧ ready.phase = .idle) ∧
    ∃ t, Instr.finb 1 ∈ [Instr.fina 1, .finb 1] ∧ exec (.finb 1) (running (.finb 1)) = .next t :=
  ⟨⟨_, by decide, rfl, rfl⟩, ⟨_, rfl, rfl⟩, ⟨_, by decide, rfl⟩⟩

theorem test_witness_RotationAndProductAreExact : 63 < 64 ∧ 0 < 64 := by decide

theorem test_witness_LongStringsAreGatheredWithAnOverlappingTail :
    8 ≤ (List.replicate 8 (1 : Byte)).length ∧ (List.replicate 8 (1 : Byte)).length % 8 = 0 ∧
    8 ≤ (List.replicate 9 (1 : Byte)).length ∧ (List.replicate 9 (1 : Byte)).length % 8 ≠ 0 := by decide

theorem test_witness_ShortStringsAreGatheredAsOneWord :
    4 ≤ [1, 2, 3, (4 : Byte)].length ∧ [1, 2, 3, 4, 5, 6, (7 : Byte)].length ≤ 7 ∧
    2 ≤ [1, (2 : Byte)].length ∧ [1, 2, (3 : Byte)].length ≤ 3 := by decide

theorem test_witness_AlignedSplitsIngestAsOneString :
    (∀ x ∈ [List.replicate 8 (1 : Byte), [], List.replicate 16 2], x.length % 8 = 0) ∧
    ((List.replicate 12 (3 : Byte)).length % 8 = 0 ∨ 8 ≤ (List.replicate 12 (3 : Byte)).length) ∧
    (([] : List Byte).length % 8 = 0 ∨ 8 ≤ ([] : List Byte).length) := by decide

theorem test_witness_RemainderFoldsMostSignificantFirst :
    6 < (List.replicate 7 (1 : Byte)).length % 8 ∧ 8 * ((List.replicate 7 (1 : Byte)).length % 8) ≤ 56 ∧
    8 * ((List.replicate 8 (1 : Byte)).length % 8) ≤ 0 := by decide

theorem test_witness_IngestionOfVariantB : (0xffffffffffffff00 : Word).extractLsb' 0 8 = 0 := by decide

theorem test_witness_DualMixer :
    (0xffffffffffffff00 : Word).extractLsb' 0 8 = 0 ∧ (1 : Word).extractLsb' 0 8 ≠ 0 := by decide

/-- The invariant at a state with a command in execution. -/
theorem test_running_inv : (running (.writea 0 4080 16)).Inv where
  params := by decide
  msgbuf := by decide
  slots := by decide
  record := by decide
  latch := by decide
  secret := by decide
  res1 := by decide

theorem test_witness_StepKeepsTheInvariant :
    ∃ t, (running (.writea 0 4080 16)).Inv ∧ step (running (.writea 0 4080 16)) = .next t :=
  ⟨_, test_running_inv, rfl⟩

theorem test_witness_InvariantStatesNeverStop : (running (.writea 0 4080 16)).Inv := test_running_inv

theorem test_witness_EnabledEngineStepCompletes :
    (running (.writea 0 4080 16)).Inv ∧ (running (.writea 0 4080 16)).enabled = true ∧
    (running (.writea 0 4080 16)).turns = [] := ⟨test_running_inv, by decide, rfl⟩

theorem test_witness_SeedbSecretsAreBalanced :
    ∃ t, (withWord 0x0123456789abcdef (running .seedb)).phase = .exec ∧
      exec .seedb (withWord 0x0123456789abcdef (running .seedb)) = .next t ∧ t.phase = .idle :=
  ⟨{ withWord 0x0123456789abcdef (running .seedb) with
      phase := .idle, entFull := false, secb := 0x0123456789abcdef
      secb2 := deriveSecret2 0x0123456789abcdef }, rfl, rfl, rfl⟩

theorem test_witness_SecondaryDigestsAreNeverEmptySentinels :
    (∃ t, (running (.fin2b 1)).ctxs[1]? = some slotB ∧ slotB.tag = .b ∧ slotB.Legal ∧
      (running (.fin2b 1)).phase = .exec ∧ exec (.fin2b 1) (running (.fin2b 1)) = .next t) ∧
    (∃ t, (running (.fin2a 0)).phase = .exec ∧ exec (.fin2a 0) (running (.fin2a 0)) = .next t) ∧
    ∃ t, (running .dual).phase = .exec ∧ exec .dual (running .dual) = .next t :=
  ⟨⟨_, rfl, rfl, by decide, rfl, rfl⟩, ⟨_, rfl, rfl⟩, ⟨_, rfl, rfl⟩⟩

theorem test_witness_FactoriesAreWrittenOnlyByTheirCommands :
    ∃ t, step (running .loadsecb) = .next t := ⟨_, rfl⟩

theorem test_witness_SlotsAreWrittenOnlyByTheirCommands :
    ∃ t, step (running (.newa 3)) = .next t ∧ t.ctxs[3]? ≠ (running (.newa 3)).ctxs[3]? :=
  ⟨_, rfl, by decide⟩

theorem test_witness_ResultsAndMsgbufHaveTheirWriters :
    (∃ t, step (running .dual) = .next t ∧ t.res0 ≠ (running .dual).res0) ∧
    (∃ t, step (running (.fin2b 1)) = .next t ∧ t.res1 ≠ (running (.fin2b 1)).res1) ∧
    ∃ t, EngineRuns (running .dual) .dual ∧ step (running .dual) = .next t :=
  ⟨⟨_, rfl, by decide⟩, ⟨_, rfl, by decide⟩, ⟨_, ⟨by decide, rfl, .inl rfl⟩, rfl⟩⟩

theorem test_witness_ArgWritesDoNotDisturbTheRunningCommand :
    (running .dual).phase = .exec ∧ ∃ t, ready.phase = .idle ∧ exec .dual ready = .next t ∧ t.phase = .exec :=
  ⟨rfl, _, rfl, rfl, rfl⟩

theorem test_witness_SlotsDoNotInterfere : slotOf (.writea 0 0 12) ≠ some 1 ∧ slotOf .dual ≠ some 0 := by decide

theorem test_witness_ResetRestoresEveryResetValue :
    (scheduled [.reset] [] (running .seedb)).turns = [.reset] := by decide

end Sys2Proof.Tests
end

section
/-! The constants, STATUS and reset (10_state.md R20 to R26, R45; 70_reset_and_hazards.md R250). -/

namespace Sys2Proof.Machine

open Sys2Proof.Claims

/-- An aligned 8-byte read that reaches a register returns its value and records it, and does nothing else
(R21). -/
theorem readsAs_of_target {s : State} {off : Nat} {r : Reg} (h : s.target off 8 = some (.reg r)) :
    readsAs s off (s.readReg r) := by
  obtain ⟨-, -, hlt⟩ := State.offset_of_target h
  have hoff : (BitVec.ofNat 17 off).toNat = off := by
    rw [BitVec.toNat_ofNat]
    omega
  exact congrArg Host.Outcome.next (State.hostRead_reg (n := .w8) (by rwa [hoff]))

/-- A fixed register reads its value whatever the instantiation is (R20, R21). -/
theorem readsAs_fixed (s : State) {r : Reg}
    (h : r ∈ [Reg.id, .param, .status, .cmd, .entropy, .arg0, .arg1, .res0, .res1, .iva0, .iva1, .secb, .secb2]) :
    readsAs s r.offset (s.readReg r) := readsAs_of_target (s.target_fixed h)

/-- A legal write to a read-only register raises E_ACCESS and does nothing else (R21). -/
theorem writeReg_ro {r : Reg} (h : r.kind = .ro) (off : BitVec 17) (v : Word) (s : State) :
    writeReg off v r s = .next (s.raise .access (.write off .w8 v)) := by
  cases r with
  | cmd | entropy | arg0 | arg1 => cases h
  | _ => rfl

/-- The stamp plays no part in an error's record. -/
theorem State.record_advance (s : State) (e : ErrCode) : s.advance.record e = (s.record e).advance := by
  cases h : s.err <;> simp [State.record, h] <;> rfl

/-- The stamp plays no part in raising an error. -/
theorem State.raise_advance (s : State) (e : ErrCode) (a : Access) :
    s.advance.raise e a = (s.raise e a).advance := by
  rw [State.raise, s.record_advance]
  rfl

/-- A write that reaches a read-only register is dropped with E_ACCESS (R21, 60_exceptions.md R219). -/
theorem gives_write_ro {s : State} {off : BitVec 17} {r : Reg} (hk : r.kind = .ro)
    (h : s.target off.toNat 8 = some (.reg r)) (v : Word) :
    gives (access (.write off .w8 v) s) (s.raise .access (.write off .w8 v)) := by
  refine ⟨(s.raise .access (.write off .w8 v)).stamp + 1, ?_⟩
  calc access (.write off .w8 v) s
    _ = writeReg off v r s.advance := hostWrite_reg (s := s.advance) (n := .w8) v h
    _ = .next (s.advance.raise .access (.write off .w8 v)) := writeReg_ro hk ..
    _ = .next (s.raise .access (.write off .w8 v)).advance := by rw [s.raise_advance]

section paramFields
variable (n : BitVec 4) (m : BitVec 17)

/-- PARAM's layout (R23) on its two field values. -/
def paramOf : Word := n.setWidth 64 ||| (m.setWidth 64 <<< 32)

theorem paramOf_nctx : (paramOf n m).extractLsb' 0 4 = n := by
  ext k hk
  interval_cases k <;> simp [paramOf]

theorem paramOf_low_zero : (paramOf n m).extractLsb' 4 28 = 0 := by
  ext k hk
  interval_cases k <;> simp [paramOf]

theorem paramOf_msgbufSize : (paramOf n m).extractLsb' 32 17 = m := by
  ext k hk
  interval_cases k <;> simp [paramOf]

theorem paramOf_high_zero : (paramOf n m).extractLsb' 49 15 = 0 := by
  ext k hk
  interval_cases k <;> simp [paramOf]

end paramFields

theorem State.param_eq_paramOf (s : State) :
    s.param = paramOf (BitVec.ofNat 4 s.nctx) (BitVec.ofNat 17 s.msgbufSize) := rfl

/-- Legal parameters fit their fields of PARAM, so each reads back exactly (00_scope.md R3, R4). -/
theorem State.param_fields {s : State} (h : s.LegalParams) :
    (s.param.extractLsb' 0 4).toNat = s.nctx ∧ s.param.extractLsb' 4 28 = 0 ∧
      (s.param.extractLsb' 32 17).toNat = s.msgbufSize ∧ s.param.extractLsb' 49 15 = 0 := by
  obtain ⟨-, hn, -, hm⟩ := h
  rw [s.param_eq_paramOf, paramOf_nctx, paramOf_msgbufSize, BitVec.toNat_ofNat, BitVec.toNat_ofNat]
  exact ⟨Nat.mod_eq_of_lt (by omega), paramOf_low_zero .., Nat.mod_eq_of_lt (by omega), paramOf_high_zero ..⟩

/-- `t` is a state of the same instantiation as `s` (00_scope.md R3, R4). -/
def SameInstantiation (s t : State) : Prop := t.ctxs.length = s.ctxs.length ∧ t.msgbufSize = s.msgbufSize

/-- PARAM shows the instantiation and nothing else. -/
theorem SameInstantiation.param {s t : State} (h : SameInstantiation s t) : t.param = s.param := by
  obtain ⟨hc, hm⟩ := h
  simp only [State.param, State.nctx, hc, hm]

/-- A command keeps the instantiation, at issue and at completion. -/
theorem exec_sameInstantiation {i : Instr} {s t : State} (h : exec i s = .next t) : SameInstantiation s t :=
  ⟨(exec_untouched h).slots, (exec_untouched h).msgbufSize⟩

/-- A host access keeps the instantiation. -/
theorem AccessDoes.sameInstantiation {s t : State} {a : Access} (h : AccessDoes s a t) :
    SameInstantiation s t := by
  cases h with
  | issues _ _ h => exact (exec_sameInstantiation h :)
  | _ => exact ⟨by simp, by simp⟩

/-- Reset keeps the instantiation (10_state.md R45). -/
theorem State.doReset_sameInstantiation (s : State) : SameInstantiation s s.doReset :=
  ⟨List.length_replicate, rfl⟩

/-- A step keeps the instantiation; the schedule, the program and the stamp it takes first are no part of it. -/
theorem step_sameInstantiation {s t : State} (h : step s = .next t) : SameInstantiation s t := by
  cases step_does h with
  | hostEnds | polls | holds => exact ⟨rfl, rfl⟩
  | accesses _ _ h => exact h.sameInstantiation
  | engine _ _ h => exact (exec_sameInstantiation h :)
  | resets => exact State.doReset_sameInstantiation (State.advance { s with turns := s.turns.tail })

/-- Settles O18: ID and PARAM are read through the register map, a step keeps the instantiation, and PARAM is a
function of that alone. -/
theorem idAndParamAreConstant : Obligations.IdAndParamAreConstant := by
  unfold Obligations.IdAndParamAreConstant
  refine ⟨fun s => ⟨readsAs_fixed s (r := .id) (by simp), readsAs_fixed s (r := .param) (by simp)⟩,
    fun v s => ⟨gives_write_ro rfl (s.target_fixed (r := .id) (by simp)) v,
      gives_write_ro rfl (s.target_fixed (r := .param) (by simp)) v⟩, ?_⟩
  refine ⟨rfl, by decide, by decide, by decide, by decide, by decide, fun s => State.param_fields, by decide, ?_⟩
  exact fun s t h => (step_sameInstantiation h).param

/-- A flag is bit `k` of its word and no other. -/
theorem getLsbD_flagBit (b : Bool) (k : Nat) {j : Nat} (hj : j < 64) :
    (flagBit b k).getLsbD j = (decide (j = k) && b) := by
  cases b with
  | false => simp [flagBit]
  | true =>
    calc (flagBit true k).getLsbD j
      _ = (BitVec.twoPow 64 k).getLsbD j := rfl
      _ = (decide (k < 64) && decide (k = j)) := BitVec.getLsbD_twoPow ..
      _ = (decide (j = k) && true) := by
        have hk : k < 64 ∧ k = j ↔ j = k := by omega
        rw [← Bool.decide_and, Bool.and_true, decide_eq_decide.mpr hk]

/-- STATUS bit by bit (R24). -/
theorem State.getLsbD_status (s : State) {j : Nat} (hj : j < 64) : s.status.getLsbD j =
    (decide (j = 0) && s.busy || decide (j = 1) && s.holding || decide (j = 2) && s.entFull ||
      decide (j = 3) && s.keyedA || decide (j = 4) && s.keyedB || decide (j = 5) && s.err ||
      decide (j = 6) && s.errMulti || decide (8 ≤ j) && s.errCode.getLsbD (j - 8)) := by
  have hcode : (s.errCode.setWidth 64 <<< 8).getLsbD j = (decide (8 ≤ j) && s.errCode.getLsbD (j - 8)) := by
    by_cases h8 : j < 8
    · simp [h8, Nat.not_le.mpr h8]
    · simp [hj, h8, Nat.not_lt.mp h8]
  simp only [State.status, BitVec.getLsbD_or, getLsbD_flagBit _ _ hj, hcode]

/-- BUSY is PHASE = EXEC (R25). -/
theorem State.busy_iff {s : State} : s.busy = true ↔ s.phase = .exec := beq_iff_eq

/-- ENT_REQ is the conjunction of R26. -/
theorem State.holding_iff {s : State} : s.holding = true ↔
    s.phase = .exec ∧ (s.latch.cmd = .seeda ∨ s.latch.cmd = .seedb) ∧ s.entFull = false := by
  simp [State.holding, State.busy, takesEntropy, and_assoc]

/-- The engine holds while ENT_REQ reads 1 (R26). -/
theorem engineTurn_holding {s : State} (h : s.holding = true) : engineTurn s = .next s := by
  simp [engineTurn, State.enabled, h]

/-- ERRCODE is bits 15:8 of STATUS (R24). -/
theorem State.status_errCode (s : State) : s.status.extractLsb' 8 8 = s.errCode := by
  ext k hk
  have h : ∀ j < 8, 8 + k ≠ j := by omega
  rw [BitVec.getElem_extractLsb', s.getLsbD_status (by omega)]
  simp [h, hk]

/-- Bits 63:16 of STATUS read 0 (R24). -/
theorem State.status_high_zero (s : State) : s.status.extractLsb' 16 48 = 0 := by
  ext k hk
  have h : ∀ j < 8, 16 + k ≠ j := by omega
  rw [BitVec.getElem_extractLsb', s.getLsbD_status (by omega)]
  simp [h, BitVec.getLsbD_of_ge s.errCode (16 + k - 8) (by omega)]

/-- Settles O19: each bit is read off STATUS's own formula, and ENT_REQ is what disables the engine. -/
theorem statusReadsItsFields : Obligations.StatusReadsItsFields := by
  unfold Obligations.StatusReadsItsFields
  intro s
  have hbusy : s.status.getLsbD 0 = s.busy := by rw [s.getLsbD_status (by decide)]; simp
  have hreq : s.status.getLsbD 1 = s.holding := by rw [s.getLsbD_status (by decide)]; simp
  rw [hbusy, hreq]
  refine ⟨State.busy_iff, State.holding_iff, engineTurn_holding, ?_, ?_, ?_, ?_, ?_, ?_,
    s.status_errCode, s.status_high_zero⟩ <;>
  · rw [s.getLsbD_status (by decide)]
    simp

/-- The state reset gives an instantiation has the reset values (R45). -/
theorem atReset_resetOf (nctx size : Nat) : AtReset (State.resetOf nctx size) := by
  have hstatus : (State.resetOf nctx size).status = 0 := by
    simp [State.status, State.holding, State.busy, State.resetOf, flagBit]
  refine ⟨hstatus, rfl, rfl, rfl, rfl, rfl, rfl, rfl, rfl, rfl, rfl, rfl, rfl, rfl, rfl, rfl, ?_, ?_⟩
  · exact fun x hx => List.eq_of_mem_replicate hx
  · exact Memory.read_nil

/-- The reset values do not depend on the stamp, the program, the schedule and the history, which reset keeps. -/
theorem atReset_doReset (s : State) : AtReset s.doReset := atReset_resetOf s.nctx s.msgbufSize

/-- Settles O60: the reset turn's state is the instantiation's reset state, whatever the state before it was. -/
theorem resetRestoresEveryResetValue : Obligations.ResetRestoresEveryResetValue := by
  unfold Obligations.ResetRestoresEveryResetValue
  refine ⟨⟨atReset_resetOf _ _, by decide, by decide, by decide⟩, fun s ts h => ?_⟩
  have hstep := step_cons h
  obtain ⟨hctxs, hsize⟩ := step_sameInstantiation hstep
  exact ⟨_, hstep, atReset_doReset _, hctxs, hsize, (step_sameInstantiation hstep).param⟩

end Sys2Proof.Machine
end

section
/-! The window and MSGBUF (20_memory.md R60 to R67). -/

namespace Sys2Proof.Machine

open Sys2Proof.Claims

/-- The register map lists the fixed registers and those of the existing slots, and no other (10_state.md R20,
R37). -/
theorem mem_regMap_iff {nctx : Nat} {r : Reg} : r ∈ regMap nctx ↔ exists_ nctx r := by
  cases r <;> simp [regMap, exists_, regSlot]

/-- Every register is aligned to its 8 bytes (10_state.md R20). -/
theorem Reg.offset_mod_eight (r : Reg) : r.offset % 8 = 0 := by
  cases r <;> simp only [Reg.offset] <;> omega

/-- The register an access reaches exists on the instantiation (10_state.md R37). -/
theorem State.exists_of_target {s : State} {off n : Nat} {r : Reg} (h : s.target off n = some (.reg r)) :
    exists_ s.ctxs.length r := by
  unfold State.target at h
  split_ifs at h
  · obtain ⟨r', hr, hrr⟩ := Option.map_eq_some_iff.mp h
    cases hrr
    exact mem_regMap_iff.mp (List.mem_of_find?_eq_some hr)
  · cases h

/-- What the window does not admit reaches nothing (R62 to R65). -/
theorem State.target_eq_none {s : State} {off n : Nat} (h : ¬ admitted s off n) : s.target off n = none := by
  rcases htg : s.target off n with _ | ⟨r | i⟩
  · rfl
  · obtain ⟨hoff, hn, hlt⟩ := State.offset_of_target htg
    exact absurd (.inl ⟨hlt, hn, hoff ▸ r.offset_mod_eight, r, hoff, State.exists_of_target htg⟩) h
  · obtain ⟨rfl, hmod, hle⟩ := State.buf_of_target htg
    exact absurd (.inr ⟨by omega, by simpa using hmod, by omega⟩) h

/-- Past the register region the window admits the naturally aligned accesses inside MSGBUF (R64, R65). -/
theorem admitted_buf_iff {s : State} {i n : Nat} :
    admitted s (0x10000 + i) n ↔ i % n = 0 ∧ i + n ≤ s.msgbufSize := by
  simp [admitted]

/-- A write that raises an error in the state it starts from raises it in the state before, the stamp aside. -/
theorem gives_raise_of_advance {r : Result} {s : State} {e : ErrCode} {a : Access}
    (h : r = .next (s.advance.raise e a)) : gives r (s.raise e a) :=
  ⟨(s.raise e a).stamp + 1, h.trans (congrArg Host.Outcome.next (s.raise_advance e a))⟩

section dropped
variable {s : State} {off : BitVec 17} {n : Width} (h : ¬ admitted s off.toNat n.bytes)
include h

/-- A write the window does not admit is dropped with E_ACCESS (R62, R63). -/
theorem gives_write_dropped (d : Word) :
    gives (access (.write off n d) s) (s.raise .access (.write off n d)) :=
  gives_raise_of_advance (hostWrite_none (s := s.advance) d (State.target_eq_none h))

/-- A read the window does not admit returns 0 and raises E_ACCESS (R62, R63). -/
theorem access_read_dropped : access (.read off n) s = .next { s.raise .access (.read off n) with
    history := .returned off n 0 :: .raised .access (.read off n) :: s.history } :=
  congrArg Host.Outcome.next (State.hostRead_none (State.target_eq_none h))

end dropped

/-- Settles O21: an access that is not admitted reaches no target. -/
theorem inadmissibleAccessesAreDropped : Obligations.InadmissibleAccessesAreDropped := by
  unfold Obligations.InadmissibleAccessesAreDropped
  exact fun off n s h => ⟨gives_write_dropped h, access_read_dropped h⟩

/-- A MSGBUF write while BUSY = 0 stores its bytes (R64). -/
theorem access_write_idle {s : State} {off : BitVec 17} {n : Width} {i : Nat} (d : Word)
    (h : s.target off.toNat n.bytes = some (.buf i)) (hp : s.phase = .idle) :
    access (.write off n d) s = .next (s.advance.memWrite i n.bytes d) := by
  have hb : ¬ s.advance.busy = true := by simp [State.busy, hp]
  exact (hostWrite_buf (s := s.advance) d h).trans (if_neg hb)

/-- A MSGBUF write while BUSY = 1 is dropped with E_BUSY (R64). -/
theorem gives_write_busy {s : State} {off : BitVec 17} {n : Width} {i : Nat} (d : Word)
    (h : s.target off.toNat n.bytes = some (.buf i)) (hp : s.phase = .exec) :
    gives (access (.write off n d) s) (s.raise .busy (.write off n d)) := by
  have hb : s.advance.busy = true := State.busy_iff.mpr hp
  exact gives_raise_of_advance ((hostWrite_buf (s := s.advance) d h).trans (if_pos hb))

/-- Settles O22: a legal write reaches its first MSGBUF byte, where the phase decides between the store and
E_BUSY; any other past the register region is not admitted. -/
theorem msgbufWritesStoreTheirBytes : Obligations.MsgbufWritesStoreTheirBytes := by
  unfold Obligations.MsgbufWritesStoreTheirBytes
  intro off n d i s hoff
  have htarget : i % n.bytes = 0 ∧ i + n.bytes ≤ s.msgbufSize → s.target off.toNat n.bytes = some (.buf i) :=
    fun ⟨hmod, hle⟩ => hoff ▸ State.target_buf hmod hle
  refine ⟨fun hl hp => ?_, fun hl hp => gives_write_busy d (htarget hl) hp, fun hl => ?_⟩
  · exact ⟨_, access_write_idle d (htarget hl) hp, fun j hj => State.byteAt_memWrite hj,
      fun a ha => Memory.read_store_outside ha, rfl⟩
  · exact gives_write_dropped (by rwa [hoff, admitted_buf_iff]) d

/-- Bit `k` of an assembled string is bit `k % 8` of byte `k / 8`, 0 past its end (00_scope.md R14). -/
theorem getLsbD_le (b : List Byte) (k : Nat) :
    (le b).getLsbD k = (decide (k < 64) && (b.getD (k / 8) 0).getLsbD (k % 8)) := by
  induction b generalizing k with
  | nil => simp [le]
  | cons x rest ih =>
    rw [le, BitVec.getLsbD_or, BitVec.getLsbD_setWidth, BitVec.getLsbD_shiftLeft, ih]
    by_cases hk : k < 8
    · simp [hk, Nat.div_eq_of_lt hk, Nat.mod_eq_of_lt hk]
    · obtain ⟨m, rfl⟩ : ∃ m, k = m + 8 := ⟨k - 8, by omega⟩
      by_cases h64 : m + 8 < 64
      · have hm : m < 64 := by omega
        simp [h64, hm]
      · simp [h64]

/-- Byte `j` of an assembled string is the string's byte `j`, 0 past its end (00_scope.md R14). -/
theorem byteOf_le (b : List Byte) {j : Nat} (hj : j < 8) : byteOf (le b) j = b.getD j 0 := by
  ext k hk
  have hlt : 8 * j + k < 64 := by omega
  have hdiv : (8 * j + k) / 8 = j := by omega
  have hmod : (8 * j + k) % 8 = k := by omega
  rw [byteOf, BitVec.getElem_extractLsb', getLsbD_le, hdiv, hmod, decide_eq_true hlt, Bool.true_and,
    BitVec.getLsbD_eq_getElem hk]

/-- Bits past an assembled string are 0 (00_scope.md R14). -/
theorem getLsbD_le_of_length_le {b : List Byte} {k : Nat} (h : 8 * b.length ≤ k) :
    (le b).getLsbD k = false := by
  have hout : b.getD (k / 8) 0 = 0 := List.getD_eq_default _ _ (by omega)
  rw [getLsbD_le, hout]
  simp

/-- Byte `j` of a byte string of MSGBUF is the byte `j` past its start (R66). -/
theorem State.memRead_getD (s : State) {i n j : Nat} (h : j < n) : (s.memRead i n).getD j 0 = s.byteAt (i + j) := by
  simp [State.memRead, h]

theorem Width.bytes_le_eight (n : Width) : n.bytes ≤ 8 := by cases n <;> decide

/-- A legal MSGBUF read returns its bytes' assembly and records it, and does nothing else (R65). -/
theorem access_read_buf {s : State} {off : BitVec 17} {n : Width} {i : Nat}
    (h : s.target off.toNat n.bytes = some (.buf i)) :
    access (.read off n) s =
      .next { s with history := .returned off n (le (s.memRead i n.bytes)) :: s.history } :=
  congrArg Host.Outcome.next (State.hostRead_buf h)

/-- Settles O23: a legal read returns the assembly of its bytes, any other past the register region is not
admitted, and MSGBUF is among what a command does not touch. -/
theorem msgbufReadsAssembleTheirBytes : Obligations.MsgbufReadsAssembleTheirBytes := by
  unfold Obligations.MsgbufReadsAssembleTheirBytes
  refine ⟨fun _ _ _ h => (exec_untouched h).msgbuf, fun off n i s hoff => ⟨fun ⟨hmod, hle⟩ => ?_, fun hl => ?_⟩⟩
  · refine ⟨_, access_read_buf (hoff ▸ State.target_buf hmod hle), fun j hj => ?_, fun k hk => ?_⟩
    · calc byteOf (le (s.memRead i n.bytes)) j
        _ = (s.memRead i n.bytes).getD j 0 := byteOf_le _ (hj.trans_le n.bytes_le_eight)
        _ = s.byteAt (i + j) := s.memRead_getD hj
    · exact getLsbD_le_of_length_le (by rwa [State.memRead_length])
  · exact access_read_dropped (by rwa [hoff, admitted_buf_iff])

end Sys2Proof.Machine
end

section
/-! The decoder's Illegal and the assembler's words (30_encoding.md R87 to R92). -/

namespace Sys2Proof

open Sys2Proof.Machine Sys2Proof.Claims

/-- The mask and match of a row of the opcode map (R82 to R84, R87). -/
def Op.row (o : Op) : Word × Word := (o.format.mask, o.code.setWidth 64)

theorem Op.mem_all (o : Op) : o ∈ Op.all := by cases o <;> decide

/-- The opcode table's rows are the opcode map's, in its order (R87). -/
theorem rows_eq_map_row : rows = Op.all.map Op.row := rfl

theorem Op.row_mem_rows (o : Op) : o.row ∈ rows := rows_eq_map_row ▸ List.mem_map_of_mem o.mem_all

/-- A row's match has the row's OP byte. -/
theorem Op.extractLsb'_row (o : Op) : o.row.2.extractLsb' 0 8 = o.code := by cases o <;> rfl

/-- No two rows share an OP byte (R87). -/
theorem Op.code_injective : Function.Injective Op.code := fun o p h =>
  Option.some.inj (by rw [← o.ofCode_code, h, p.ofCode_code])

/-- The opcode map has none of the OP values R89 reserves. -/
theorem Op.not_reservedOp_code (o : Op) : ¬ reservedOp o.code.toNat := by
  unfold reservedOp
  cases o <;> decide

/-- A word that decodes has the OP byte of a row, agrees with it on the bits its format compares, and decodes to
the row's command on the word's operand fields (R88). -/
theorem row_of_decode_ok {w : Word} {i : Instr} (h : decode w = .ok i) :
    ∃ o : Op, w.extractLsb' 0 8 = o.code ∧ w &&& o.row.1 = o.row.2 ∧
      i = o.build (fieldCtx w) (fieldOff w) (fieldLen w) := by
  unfold decode at h
  split at h
  next => cases h
  next o ho =>
    split at h
    next hmask => exact ⟨o, (Op.code_of_ofCode ho).symm, hmask, (Except.ok.inj h).symm⟩
    next => cases h

/-- A word that agrees with no row of its OP byte is Illegal (R88). -/
theorem decode_error_of_no_row {w : Word}
    (h : ∀ o : Op, w.extractLsb' 0 8 = o.code → w &&& o.row.1 ≠ o.row.2) : ∃ e, decode w = .error e := by
  cases hd : decode w with
  | error e => exact ⟨e, rfl⟩
  | ok i =>
    obtain ⟨o, hop, hrow, -⟩ := row_of_decode_ok hd
    exact absurd hrow (h o hop)

/-- A reserved OP is Illegal whatever the other bits are (R89). -/
theorem decode_error_of_reservedOp {w : Word} (h : reservedOp (w.extractLsb' 0 8).toNat) :
    ∃ e, decode w = .error e :=
  decode_error_of_no_row fun o hop => absurd (hop ▸ h) o.not_reservedOp_code

/-- A set bit where the format of the word's own row requires 0 is Illegal (R89). -/
theorem decode_error_of_mask_ne {w : Word} {o : Op} (hop : w.extractLsb' 0 8 = o.code)
    (h : w &&& o.row.1 ≠ o.row.2) : ∃ e, decode w = .error e :=
  decode_error_of_no_row fun _ hp => Op.code_injective (hop.symm.trans hp) ▸ h

/-- Settles O5: a word decodes only by the one row that has its OP byte, reserved values are no row's, and the
issue of a word that does not decode raises E_ILLEGAL. -/
theorem reservedWordsAreIllegal : Obligations.ReservedWordsAreIllegal := by
  unfold Obligations.ReservedWordsAreIllegal
  refine ⟨fun _ => decode_error_of_reservedOp, fun w row hmem hop hmask => ?_,
    decode_error_of_reservedOp (.inl rfl), fun _ _ _ hd hp => issue_illegal hp hd, fun w i hd => ?_⟩
  · rw [rows_eq_map_row] at hmem
    obtain ⟨o, -, rfl⟩ := List.mem_map.mp hmem
    exact decode_error_of_mask_ne (hop.trans o.extractLsb'_row) hmask
  · obtain ⟨o, -, hrow, -⟩ := row_of_decode_ok hd
    exact ⟨o.row, o.row_mem_rows, hrow⟩

/-- The word of a command without a slice: LEN and OFF are 0 (R92). -/
theorem encode_of_no_slice {i : Instr} (hlen : i.len = 0) (hoff : i.off = 0) :
    encode i = i.op.code.setWidth 64 ||| (BitVec.ofNat 64 i.ctx <<< 8) := by
  simp [encode, hlen, hoff]

/-- The word of a command without operands is its opcode (R92). -/
theorem encode_of_no_operand {i : Instr} (hctx : i.ctx = 0) (hlen : i.len = 0) (hoff : i.off = 0) :
    encode i = i.op.code.setWidth 64 := by
  simp [encode_of_no_slice hlen hoff, hctx]

/-- Settles O1, format by format; the commands of format W use every field of R92's word. -/
theorem commandsAssembleToTheirWords : Obligations.CommandsAssembleToTheirWords := by
  unfold Obligations.CommandsAssembleToTheirWords
  refine ⟨fun _ => rfl, ?_, ?_, ?_, ?_, ?_, ?_, ?_, ?_, ?_, ?_, ?_, ?_, fun _ _ _ => rfl, fun _ _ _ => rfl,
    by decide, by decide, by decide, by decide⟩
  case refine_1 | refine_2 | refine_3 | refine_4 | refine_5 | refine_6 => exact encode_of_no_operand rfl rfl rfl
  all_goals exact fun _ => encode_of_no_slice rfl rfl

end Sys2Proof
end

section
/-! The SeedGenerator (40_seedgen.md R104 to R112) and the exact product it folds (00_scope.md R13,
42_whyhash.md R160). -/

namespace Sys2Proof.Machine

/-- Rounds compose: the generator state carries over from one run of rounds to the next (R107, R109). -/
theorem rounds_add (m n : Nat) (g : Gen) : rounds (m + n) g = rounds n (rounds m g) := by
  induction m generalizing g with
  | zero => rw [Nat.zero_add, rounds]
  | succ m ih => rw [Nat.succ_add, rounds, rounds, ih]

/-- A search of at most `n` rounds from `g` stops after round `k` (R108). -/
structure SearchStops (n : Nat) (g : Gen) (k : Nat) : Prop where
  pos : 0 < n → 0 < k
  le : k ≤ n
  state : search n g = rounds k g
  balanced_or_last : balanced (cand (search n g)) = true ∨ k = n
  unbalanced_before : ∀ j, 0 < j → j < k → balanced (cand (rounds j g)) = false

/-- A search without a round left stops where it is. -/
theorem SearchStops.zero (g : Gen) : SearchStops 0 g 0 where
  pos := id
  le := Nat.le_refl 0
  state := rfl
  balanced_or_last := .inr rfl
  unbalanced_before _ _ hj := absurd hj (Nat.not_lt_zero _)

/-- A search whose first candidate is balanced stops after one round. -/
theorem SearchStops.of_balanced {g : Gen} (hb : balanced (cand (genRound g)) = true) (n : Nat) :
    SearchStops (n + 1) g 1 := by
  have hstate : search (n + 1) g = genRound g := if_pos hb
  exact {
    pos := fun _ => Nat.one_pos
    le := Nat.le_add_left 1 n
    state := hstate
    balanced_or_last := .inl (hstate ▸ hb)
    unbalanced_before := fun j hpos hlt => by omega }

/-- A search whose first candidate is unbalanced goes on from the state that round left. -/
theorem SearchStops.of_unbalanced {n k : Nat} {g : Gen} (hb : balanced (cand (genRound g)) = false)
    (h : SearchStops n (genRound g) k) : SearchStops (n + 1) g (k + 1) := by
  have hstate : search (n + 1) g = search n (genRound g) := if_neg (ne_true_of_eq_false hb)
  exact {
    pos := fun _ => Nat.succ_pos k
    le := Nat.succ_le_succ h.le
    state := hstate.trans h.state
    balanced_or_last := hstate ▸ h.balanced_or_last.imp_right (congrArg Nat.succ)
    unbalanced_before := fun
      | 1, _, _ => hb
      | j + 2, _, hj => h.unbalanced_before (j + 1) j.succ_pos (Nat.lt_of_succ_lt_succ hj) }

/-- Every search stops: at its first balanced candidate, else at its last round (R108). -/
theorem exists_searchStops (n : Nat) (g : Gen) : ∃ k, SearchStops n g k := by
  induction n generalizing g with
  | zero => exact ⟨0, .zero g⟩
  | succ n ih =>
    cases hb : balanced (cand (genRound g)) with
    | true => exact ⟨1, .of_balanced hb n⟩
    | false =>
      obtain ⟨k, hk⟩ := ih (genRound g)
      exact ⟨k + 1, .of_unbalanced hb hk⟩

/-- Settles O38: each of the two searches stops, and the round counts of the warm-up and the searches add up on
the one generator state. -/
theorem ivGenerationSearchesTwice : Obligations.IvGenerationSearchesTwice := by
  unfold Obligations.IvGenerationSearchesTwice
  intro g0 g1 g2 g3 e
  obtain ⟨k0, first⟩ := exists_searchStops 1000 (rounds 20 ⟨g0 ^^^ e, g1, g2, g3⟩)
  obtain ⟨k1, second⟩ := exists_searchStops 1000 (search 1000 (rounds 20 ⟨g0 ^^^ e, g1, g2, g3⟩))
  have pos0 := first.pos (by decide)
  have pos1 := second.pos (by decide)
  have le0 := first.le
  have le1 := second.le
  refine ⟨k0, k1, pos0, le0, pos1, le1, by omega, by omega, ?_, ?_, first.balanced_or_last,
    second.balanced_or_last, fun j hpos hlt => ?_, fun j hpos hlt => ?_⟩
  · rw [rounds_add, ← first.state]
    rfl
  · rw [rounds_add, rounds_add, ← first.state, ← second.state]
    rfl
  · rw [rounds_add]
    exact first.unbalanced_before j hpos hlt
  · rw [rounds_add, rounds_add, ← first.state]
    exact second.unbalanced_before j hpos hlt

/-- The 128-bit product of two words is exact (00_scope.md R13). -/
theorem toNat_mul128 (a b : Word) : (mul128 a b).toNat = a.toNat * b.toNat := by
  have hlt : a.toNat * b.toNat < 2 ^ 64 * 2 ^ 64 := Nat.mul_lt_mul'' a.isLt b.isLt
  rw [mul128, BitVec.toNat_mul, BitVec.toNat_setWidth_of_le (by decide), BitVec.toNat_setWidth_of_le (by decide)]
  exact Nat.mod_eq_of_lt hlt

/-- The low half of the exact product (00_scope.md R13). -/
theorem lo64_mul128 (a b : Word) :
    lo64 (mul128 a b) = BitVec.ofNat 64 (a.toNat * b.toNat % 2 ^ 64) := by
  rw [← toNat_mul128]
  apply BitVec.eq_of_toNat_eq
  simp [lo64]

/-- The high half of the exact product (00_scope.md R13). -/
theorem hi64_mul128 (a b : Word) :
    hi64 (mul128 a b) = BitVec.ofNat 64 (a.toNat * b.toNat / 2 ^ 64) := by
  rw [← toNat_mul128]
  apply BitVec.eq_of_toNat_eq
  simp [hi64, Nat.shiftRight_eq_div_pow]

/-- The multiply-fold on the product of naturals (42_whyhash.md R160). -/
theorem mum_eq_fold_product (data state secret : Word) : mum data state secret =
    BitVec.ofNat 64 ((state ^^^ secret).toNat * (data ^^^ secret).toNat % 2 ^ 64) ^^^
      BitVec.ofNat 64 ((state ^^^ secret).toNat * (data ^^^ secret).toNat / 2 ^ 64) := by
  rw [mum, lo64_mul128, hi64_mul128]

/-- With secret 0 the multiply-fold folds the product of the other two words. -/
theorem mum_zero_secret (data state : Word) : mum data state 0 =
    BitVec.ofNat 64 (state.toNat * data.toNat % 2 ^ 64) ^^^ BitVec.ofNat 64 (state.toNat * data.toNat / 2 ^ 64) := by
  simp only [mum_eq_fold_product, BitVec.ofNat_eq_ofNat, BitVec.xor_zero]

/-- Settles O41: the derived secret is the multiply-fold of K_B with secret 0 (R112). -/
theorem derivedSecret : Obligations.DerivedSecret := by
  unfold Obligations.DerivedSecret
  exact ⟨fun _ _ => ⟨rfl, rfl⟩, fun s => ⟨rfl, mum_zero_secret kB s⟩,
    by decide, by decide, by decide, by decide⟩

/-- Settles O37: the seven updates of R104, composed, and R105's formula are the definitions' own. -/
theorem generatorStepAndCandidate : Obligations.GeneratorStepAndCandidate := by
  unfold Obligations.GeneratorStepAndCandidate
  exact ⟨fun _ _ _ _ => rfl, by decide, fun _ => rfl, by decide⟩

end Sys2Proof.Machine
end

section
/-! Variant A, BitTwidHash: gather, ingestion and finalization (41_bittwidhash.md R131 to R137). -/

namespace Sys2Proof.Machine

open Sys2Proof.Claims

/-- The substring from 0 is the prefix (00_scope.md R14). -/
theorem subBytes_prefix (b : List Byte) (n : Nat) : subBytes b 0 n = b.take n := rfl

/-- The substring of `n` bytes from `i` (00_scope.md R14). -/
theorem subBytes_add (b : List Byte) (i n : Nat) : subBytes b i (i + n) = (b.drop i).take n := by
  rw [subBytes, Nat.add_sub_cancel_left]

/-- The substring up to the end is the suffix (00_scope.md R14). -/
theorem subBytes_suffix (b : List Byte) (i : Nat) : subBytes b i b.length = b.drop i :=
  List.take_of_length_le (List.length_drop ..).le

/-- The gathers of the leading chunks, as one fold over the chunks' words (R132). -/
theorem gatherChunks_eq_foldl (b : List Byte) (h : HashPair) (n : Nat) : gatherChunks b h n =
    ((List.range n).map fun i => le ((b.drop (8 * i)).take 8)).foldl gather h := by
  simp only [gatherChunks, subBytes_add, List.foldl_map]

section ingestA
variable {b : List Byte} (h : HashPair)

/-- 8 or more bytes gather the leading chunks' words and then the last 8 bytes' (R132). -/
theorem ingestA_of_eight_le (hb : 8 ≤ b.length) : ingestA h b = (longWords b).foldl gather h := by
  simp only [ingestA, if_pos hb, subBytes_suffix, gatherChunks_eq_foldl, longWords, List.foldl_append,
    List.foldl_cons, List.foldl_nil]

/-- 4 to 7 bytes gather the first four and the last four in one word (R133). -/
theorem ingestA_of_four_to_seven (hlo : 4 ≤ b.length) (hhi : b.length ≤ 7) :
    ingestA h b = gather h (le (b.take 4) ||| (le (b.drop (b.length - 4)) <<< 32)) := by
  have h8 : ¬ 8 ≤ b.length := by omega
  simp only [ingestA, if_neg h8, if_pos hlo, subBytes_prefix, subBytes_suffix]

/-- 2 or 3 bytes gather the first two and the last two in one word (R134). -/
theorem ingestA_of_two_to_three (hlo : 2 ≤ b.length) (hhi : b.length ≤ 3) :
    ingestA h b = gather h (le (b.take 2) ||| (le (b.drop (b.length - 2)) <<< 16)) := by
  have h8 : ¬ 8 ≤ b.length := by omega
  have h4 : ¬ 4 ≤ b.length := by omega
  simp only [ingestA, if_neg h8, if_neg h4, if_pos hlo, subBytes_prefix, subBytes_suffix]

end ingestA

/-- One byte assembles to its zero extension (00_scope.md R14). -/
theorem le_singleton (x : Byte) : le [x] = x.setWidth 64 := by simp [le]

/-- One byte is gathered zero-extended (R135). -/
theorem ingestA_singleton (h : HashPair) (x : Byte) : ingestA h [x] = gather h (x.setWidth 64) :=
  congrArg (gather h) (le_singleton x)

/-- The empty string is not gathered (R136). -/
theorem ingestA_nil (h : HashPair) : ingestA h [] = h := rfl

/-- A long string has one word for every 8 bytes begun, ceil(L/8) in all (R132). -/
theorem length_longWords {b : List Byte} (hb : 8 ≤ b.length) : (longWords b).length = (b.length + 7) / 8 := by
  rw [longWords, List.length_append, List.length_map, List.length_range, List.length_singleton]
  omega

/-- Where the length is a multiple of 8 the last 8 bytes are the last chunk, so the words are the chunks, each
once (R132). -/
theorem longWords_of_aligned {b : List Byte} (hb : 8 ≤ b.length) (hmod : b.length % 8 = 0) :
    longWords b = (List.range (b.length / 8)).map fun i => le ((b.drop (8 * i)).take 8) := by
  obtain ⟨k, hk⟩ : ∃ k, b.length = 8 * k + 8 := ⟨b.length / 8 - 1, by omega⟩
  have hlead : (b.length - 1) / 8 = k := by omega
  have htail : b.length - 8 = 8 * k := by omega
  have hchunks : b.length / 8 = k + 1 := by omega
  have hlast : (b.drop (8 * k)).take 8 = b.drop (8 * k) :=
    List.take_of_length_le (by rw [List.length_drop]; omega)
  rw [longWords, hlead, htail, hchunks, List.range_succ, List.map_append, List.map_singleton, hlast]

/-- Settles O42: ingestion is the fold of `gather` over the string's words, which are the chunks where no tail
overlaps; where one does, its distance to the last chunk's end is arithmetic. -/
theorem longStringsAreGatheredWithAnOverlappingTail :
    Obligations.LongStringsAreGatheredWithAnOverlappingTail := by
  unfold Obligations.LongStringsAreGatheredWithAnOverlappingTail
  exact fun h b hb => ⟨ingestA_of_eight_le h hb, length_longWords hb, longWords_of_aligned hb, by omega⟩

/-- Settles O43: one equation of `ingestA` per range of lengths; the examples are the packed words' values. -/
theorem shortStringsAreGatheredAsOneWord : Obligations.ShortStringsAreGatheredAsOneWord := by
  unfold Obligations.ShortStringsAreGatheredAsOneWord
  exact ⟨fun h _ => ingestA_of_four_to_seven h, fun h _ => ingestA_of_two_to_three h, ingestA_singleton,
    ingestA_nil,
    fun h => (ingestA_of_four_to_seven h (by decide) (by decide)).trans (congrArg (gather h) (by decide)),
    fun h => (ingestA_of_two_to_three h (by decide) (by decide)).trans (congrArg (gather h) (by decide)),
    fun h => (ingestA_of_two_to_three h (by decide) (by decide)).trans (congrArg (gather h) (by decide))⟩

/-- Settles O45: R131's two lines and R137's substitution are the definitions' own; the examples are computed. -/
theorem gatherAndFinalization : Obligations.GatherAndFinalization := by
  unfold Obligations.GatherAndFinalization
  exact ⟨fun _ _ _ => rfl, by decide, by decide, fun _ _ => rfl, by decide, by decide, by decide, by decide⟩

end Sys2Proof.Machine
end

section
/-! Variant B, WhyHash: the multiply-fold, the fold of the remaining bytes, the guard and ingestion
(42_whyhash.md R160 to R166). -/

namespace Sys2Proof.Machine

/-- The 128-bit product commutes (00_scope.md R13). -/
theorem mul128_comm (a b : Word) : mul128 a b = mul128 b a := BitVec.mul_comm ..

/-- The multiply-fold commutes in its first two arguments (R160). -/
theorem mum_comm (data state secret : Word) : mum data state secret = mum state data secret := by
  rw [mum, mum, mul128_comm]

/-- Where the state equals the secret the product is 0, and so is its fold (R160). -/
theorem mum_state_eq_secret (data secret : Word) : mum data secret secret = 0 := by
  have hproduct : mul128 0#64 (data ^^^ secret) = 0 := BitVec.zero_mul
  rw [mum, BitVec.xor_self, hproduct]
  decide

/-- Settles O40: the fold of the exact product; the second corner case is the first, commuted. -/
theorem multiplyFold : Obligations.MultiplyFold := by
  unfold Obligations.MultiplyFold
  exact ⟨mum_eq_fold_product, mum_state_eq_secret,
    fun state secret => (mum_comm secret state secret).trans (mum_state_eq_secret state secret),
    mum_comm, by decide, by decide, by decide, by decide, by decide⟩

/-- A rotation that no set bit wraps around is a shift (R164). -/
theorem rotl_eq_shiftLeft {v : Word} {r : Nat} (h : v >>> (64 - r) = 0) : rotl v r = v <<< r := by
  rw [rotl, h]
  exact BitVec.or_zero

/-- Up to 7 assembled bytes leave the top byte 0 (00_scope.md R14). -/
theorem le_shiftRight_top {b : List Byte} (h : b.length ≤ 7) : le b >>> (64 - 8) = 0 := by
  apply BitVec.eq_of_getLsbD_eq
  intro k _
  rw [BitVec.getLsbD_ushiftRight, getLsbD_le_of_length_le (by omega)]
  exact BitVec.getLsbD_zero.symm

/-- Up to 8 bytes rotated in one after the other are the little-endian word of the reversed string, since no
set bit wraps around (R164). -/
theorem foldl_rotl_eq_le_reverse (t : List Byte) (h : t.length ≤ 8) :
    t.foldl (fun acc x => rotl acc 8 ||| x.setWidth 64) 0 = le t.reverse := by
  induction t using List.reverseRecOn with
  | nil => rfl
  | append_singleton t x ih =>
    have ht : t.length ≤ 7 := by rw [List.length_append, List.length_singleton] at h; omega
    have htop := le_shiftRight_top (b := t.reverse) (by rwa [List.length_reverse])
    rw [List.foldl_concat, ih (by omega), rotl_eq_shiftLeft htop, List.reverse_concat, le, BitVec.or_comm]

/-- The bytes after the full chunks (R164). -/
def remainingBytes (b : List Byte) : List Byte := b.drop (8 * (b.length / 8))

/-- There are `L mod 8` remaining bytes (R164). -/
theorem length_remainingBytes (b : List Byte) : (remainingBytes b).length = b.length % 8 := by
  rw [remainingBytes, List.length_drop]
  omega

/-- The folded remainder is the little-endian word of the remaining bytes, last byte first (R164). -/
theorem foldTail_eq_le_reverse (b : List Byte) : foldTail b = le (remainingBytes b).reverse :=
  foldl_rotl_eq_le_reverse _ (by rw [← remainingBytes, length_remainingBytes]; omega)

/-- The first remaining byte is the most significant of the folded word (R164). -/
theorem byteOf_foldTail {b : List Byte} {j : Nat} (hj : j < b.length % 8) :
    some (byteOf (foldTail b) (b.length % 8 - 1 - j)) = b[8 * (b.length / 8) + j]? := by
  have hlen := length_remainingBytes b
  have hindex : b.length % 8 - 1 - j < (remainingBytes b).length := by omega
  have hindex' : b.length % 8 - 1 - j < (remainingBytes b).reverse.length := by rwa [List.length_reverse]
  have hmirror : (remainingBytes b).length - 1 - (b.length % 8 - 1 - j) = j := by omega
  calc some (byteOf (foldTail b) (b.length % 8 - 1 - j))
    _ = some (remainingBytes b).reverse[b.length % 8 - 1 - j] := by
      rw [foldTail_eq_le_reverse, byteOf_le _ (by omega), List.getD_eq_getElem _ _ hindex']
    _ = (remainingBytes b).reverse[b.length % 8 - 1 - j]? := (List.getElem?_eq_getElem hindex').symm
    _ = (remainingBytes b)[j]? := by rw [List.getElem?_reverse hindex, hmirror]
    _ = b[8 * (b.length / 8) + j]? := List.getElem?_drop

/-- Above its bytes the folded word is 0 (R164). -/
theorem getLsbD_foldTail_of_le {b : List Byte} {k : Nat} (hk : 8 * (b.length % 8) ≤ k) :
    (foldTail b).getLsbD k = false := by
  rw [foldTail_eq_le_reverse]
  exact getLsbD_le_of_length_le (by rwa [List.length_reverse, length_remainingBytes])

/-- Settles O46: the folded word is the little-endian word of the remaining bytes, reversed. -/
theorem remainderFoldsMostSignificantFirst : Obligations.RemainderFoldsMostSignificantFirst := by
  unfold Obligations.RemainderFoldsMostSignificantFirst
  exact ⟨fun _ _ => byteOf_foldTail, fun _ _ => getLsbD_foldTail_of_le, by decide⟩

/-- Adding 1 to a word whose low byte is 0 carries into no other bit (R166). -/
theorem add_one_eq_or_one {m : Word} (h : lowByte m = 0) : m + 1 = m ||| 1 := by
  have hbit : m.getLsbD 0 = false :=
    calc m.getLsbD 0
      _ = (lowByte m).getLsbD 0 := by simp [lowByte, byteOf]
      _ = false := by rw [h]; rfl
  apply BitVec.add_eq_or_of_and_eq_zero
  calc m &&& 1#64
    _ = (BitVec.ofBool (m.getLsbD 0)).setWidth 64 := BitVec.and_one_eq_setWidth_ofBool_getLsbD
    _ = 0 := by rw [hbit]; rfl

/-- The guarded low byte is 1 (R166). -/
theorem lowByte_add_one {m : Word} (h : lowByte m = 0) : lowByte (m + 1) = 1 := by
  have hor : lowByte (m ||| 1) = lowByte m ||| lowByte 1 := BitVec.extractLsb'_or
  rw [add_one_eq_or_one h, hor, h]
  decide

/-- A guarded word's low byte is not 0 (R166). -/
theorem lowByte_guardLow_ne_zero (v : Word) : lowByte (guardLow v) ≠ 0 := by
  by_cases h : lowByte v = 0
  · rw [guardLow, if_pos h, lowByte_add_one h]
    decide
  · rwa [guardLow, if_neg h]

/-- Each running digest is updated by every word under its own secret, whatever the other is (R163). -/
theorem foldl_mumBoth (secret secret2 : Word) (ws : List Word) (d : DigestPair) :
    ws.foldl (mumBoth secret secret2) d =
      ⟨ws.foldl (fun acc c => mum c acc secret) d.state, ws.foldl (fun acc c => mum c acc secret2) d.state2⟩ := by
  induction ws generalizing d with
  | nil => rfl
  | cons w ws ih => exact ih (mumBoth secret secret2 d w)

/-- The updates by the full chunks, as one fold over the chunks' words (R163). -/
theorem chunksB_eq_foldl (secret secret2 : Word) (d : DigestPair) (b : List Byte) : chunksB secret secret2 d b =
    ((List.range (b.length / 8)).map fun i => le ((b.drop (8 * i)).take 8)).foldl (mumBoth secret secret2) d := by
  simp only [chunksB, subBytes_add, List.foldl_map]

/-- Settles O47: the fold over the chunks splits into one fold per digest; the last update and the guard are the
definition's own. -/
theorem ingestionOfVariantB : Obligations.IngestionOfVariantB := by
  unfold Obligations.IngestionOfVariantB
  refine ⟨fun secret secret2 d b => ⟨_, _, rfl, rfl, ?_⟩, fun _ _ _ _ => lowByte_guardLow_ne_zero _,
    fun _ h => ⟨add_one_eq_or_one h, lowByte_add_one h⟩⟩
  rw [ingestB, chunksB_eq_foldl, foldl_mumBoth]
  rfl

end Sys2Proof.Machine
end

section

/-! The mixer of the DualDigestExtension (43_dualdigest.md R190). -/

namespace Sys2Proof.Machine

/-- The mixer adds 1 to a word whose low byte is 0 (R190). -/
theorem dual_of_lowByte_eq_zero {p : Word} (h : lowByte p = 0) : dual p = p + 1 := if_pos h

/-- The mixer leaves every other word (R190). -/
theorem dual_of_lowByte_ne_zero {p : Word} (h : lowByte p ≠ 0) : dual p = p := if_neg h

/-- The mixer is the guard that Variant B's ingestion ends with (R166, R190). -/
theorem dual_eq_guardLow (p : Word) : dual p = guardLow p := rfl

/-- A mixed word's low byte is not 0 (R190). -/
theorem lowByte_dual_ne_zero (p : Word) : lowByte (dual p) ≠ 0 := by
  rw [dual_eq_guardLow]
  exact lowByte_guardLow_ne_zero p

/-- Settles O48: the two cases are the mixer's own, and adding 1 to a zero low byte does not carry; the examples are
computed. -/
theorem dualMixer : Obligations.DualMixer := by
  unfold Obligations.DualMixer
  refine ⟨fun p h => ?zero, fun _ => dual_of_lowByte_ne_zero, lowByte_dual_ne_zero, by decide⟩
  case zero =>
    have hdual : dual p = p + 1 := dual_of_lowByte_eq_zero h
    exact ⟨hdual, hdual.trans (add_one_eq_or_one h)⟩

end Sys2Proof.Machine
end

section
/-! The issue of a command word and the recording of errors (60_exceptions.md R217, R218, R220, R221). -/

namespace Sys2Proof.Machine

open Sys2Proof.Claims

/-- A word that decodes is the word its command assembles to, so a rejected command's error is recorded with the
access that wrote the word (30_encoding.md R88, R92). -/
theorem encode_of_decode_ok {w : Word} {i : Instr} (h : decode w = .ok i) : encode i = w := by
  obtain ⟨o, -, hmask, rfl⟩ := row_of_decode_ok h
  cases o with
  | writea | writeb => exact (encode_eq_wordOf rfl rfl rfl).trans (eq_wordOf_w hmask).symm
  | newa | fina | newb | finb | fin2b | fin2a =>
    exact (encode_eq_wordOf (len := 0) (off := 0) rfl rfl rfl).trans (eq_wordOf_c hmask).symm
  | seeda | loadiva | seedb | loadsecb | dual | clrerr =>
    exact (encode_eq_wordOf (c := 0) (len := 0) (off := 0) rfl rfl rfl).trans (eq_wordOf_n hmask).symm

section checks
variable (i : Instr) (s : State)

/-- E_CTX_RANGE applies to the commands that name a slot (R213). -/
theorem slotMissing_iff : slotMissing i s = true ↔
    i.op ∈ [Op.newa, .fina, .newb, .finb, .fin2b, .fin2a, .writea, .writeb] ∧ s.ctxs.length ≤ i.ctx := by
  change _ ↔ _ ∧ s.nctx ≤ i.ctx
  cases i <;> simp [slotMissing, slotOf, Instr.op, Instr.ctx]

/-- E_RANGE applies to the commands that name a slice (R214). -/
theorem sliceTooLong_iff : sliceTooLong i s = true ↔
    i.op ∈ [Op.writea, .writeb] ∧ s.msgbufSize < i.off + i.len := by
  cases i <;> simp [sliceTooLong, sliceEnd, Instr.op, Instr.off, Instr.len]

/-- E_UNKEYED applies to the commands that read a factory (R215). -/
theorem unkeyed_iff : unkeyed i s = true ↔
    (i.op = .newa ∧ s.keyedA = false) ∨ (i.op = .newb ∧ s.keyedB = false) := by
  cases i <;> simp [unkeyed, Instr.op]

/-- E_CTX_TAG applies to the commands that use a hasher, variant by variant (R216). -/
theorem wrongTag_iff : wrongTag i s = true ↔
    (i.op ∈ [Op.writea, .fina, .fin2a] ∧ (s.ctxs[i.ctx]?).map Ctx.tag ≠ some .a) ∨
      (i.op ∈ [Op.writeb, .finb, .fin2b] ∧ (s.ctxs[i.ctx]?).map Ctx.tag ≠ some .b) := by
  cases i <;> simp [wrongTag, slotOf, tagFor, State.tagOf, Instr.op, Instr.ctx]

/-- CLRERR is the command of its own opcode row (30_encoding.md R87). -/
theorem op_eq_clrerr_iff : i.op = .clrerr ↔ i = .clrerr := by cases i <;> simp [Instr.op]

/-- No check rejects CLRERR (44_control.md R200). -/
theorem rejection_clrerr : rejection .clrerr s = none := rfl

end checks

/-- What the checks after decoding make of a command from the write of `w`: an error, CLRERR's effect, or
acceptance (R221). -/
def checkedIssue (w : Word) (i : Instr) (s : State) : State :=
  match rejection i s with
  | some e => s.raise e (cmdAccess w)
  | none => if i = .clrerr then s.clearErr else s.accept i

/-- While BUSY = 0 `exec` checks the command, and records an error with the write of its assembled word. -/
theorem exec_eq_checkedIssue {i : Instr} {s : State} (hp : s.phase = .idle) :
    exec i s = .next (checkedIssue (encode i) i s) := by
  by_cases hi : i = .clrerr
  · subst hi
    simp only [exec, execClrerr, hp, checkedIssue, rejection_clrerr, if_true]
  · rw [exec_idle hi hp, State.issueDecoded, checkedIssue, if_neg hi]
    rfl

/-- R221's chain for a word that decodes is the model's, condition by condition. -/
theorem issued_eq_checkedIssue {w : Word} {i : Instr} {s : State} (hp : s.phase = .idle)
    (hd : decode w = .ok i) : issued w s = .next (checkedIssue w i s) := by
  have hbusy : ¬ s.phase = .exec := by simp [hp]
  simp only [issued, if_neg hbusy, hd, ← slotMissing_iff, ← sliceTooLong_iff, ← unkeyed_iff, ← ite_or,
    ← wrongTag_iff, op_eq_clrerr_iff, checkedIssue, rejection]
  split_ifs <;> rfl

/-- The model's issue is R221's, whatever the word and the state. -/
theorem issue_eq_issued (w : Word) (s : State) : issue w s = issued w s := by
  cases hp : s.phase with
  | exec => exact (issue_busy hp).trans (if_pos hp).symm
  | idle =>
    cases hd : decode w with
    | error e =>
      rw [issue_illegal hp hd, issued, hp, hd]
      rfl
    | ok i =>
      calc issue w s
        _ = exec i s := issue_decoded hp hd
        _ = .next (checkedIssue (encode i) i s) := exec_eq_checkedIssue hp
        _ = .next (checkedIssue w i s) := by rw [encode_of_decode_ok hd]
        _ = issued w s := (issued_eq_checkedIssue hp hd).symm

/-- An 8-byte write to CMD is the issue of its word, the stamp moved on (10_state.md R29). -/
theorem access_cmdAccess (w : Word) (s : State) : access (cmdAccess w) s = issue w s.advance :=
  hostWrite_cmd w s.advance

/-- Settles O10: each check of the model is R221's condition on the opcode rows it names, and a word that decodes is
its command's own, so both record the same access. -/
theorem issueFollowsTheOrderOfChecks : Obligations.IssueFollowsTheOrderOfChecks := by
  unfold Obligations.IssueFollowsTheOrderOfChecks
  exact fun w s => ⟨issue_eq_issued w s, s.stamp + 1,
    (access_cmdAccess w s).trans (issue_eq_issued w s.advance)⟩

/-- The checks after decoding do not raise E_BUSY (R221). -/
theorem rejection_ne_busy (i : Instr) (s : State) : rejection i s ≠ some .busy := by
  unfold rejection
  split_ifs <;> simp

/-- The issue of a command while BUSY = 0 records no E_BUSY (R217). -/
theorem busy_mem_history_of_exec_idle {i : Instr} {s t : State} {a : Access} (hp : s.phase = .idle)
    (h : exec i s = .next t) (hm : .raised .busy a ∈ t.history) : .raised .busy a ∈ s.history := by
  rcases exec_issues hp h with ⟨-, rfl⟩ | ⟨-, e, he, rfl⟩ | ⟨-, -, rfl⟩
  · exact hm
  · have hne : ErrCode.busy ≠ e := fun hb => rejection_ne_busy i s (hb ▸ he)
    simpa [hne] using hm
  · exact hm

/-- The window admits what it gives a MSGBUF byte to (20_memory.md R64, R65). -/
theorem State.admitted_of_target_buf {s : State} {off n i : Nat} (h : s.target off n = some (.buf i)) :
    0x10000 ≤ off ∧ admitted s off n := by
  obtain ⟨rfl, hl⟩ := State.buf_of_target h
  exact ⟨Nat.le_add_right .., admitted_buf_iff.mpr hl⟩

/-- An admitted access past the register region reaches a MSGBUF byte (20_memory.md R64, R65). -/
theorem State.target_buf_of_admitted {s : State} {off n : Nat} (hoff : 0x10000 ≤ off) (h : admitted s off n) :
    ∃ i, s.target off n = some (.buf i) := by
  obtain ⟨i, rfl⟩ := Nat.exists_eq_add_of_le hoff
  obtain ⟨hmod, hle⟩ := admitted_buf_iff.mp h
  exact ⟨i, State.target_buf hmod hle⟩

/-- A CMD write while BUSY = 1 is dropped with E_BUSY, not decoded (R217). -/
theorem gives_cmd_busy (w : Word) {s : State} (hp : s.phase = .exec) :
    gives (access (cmdAccess w) s) (s.raise .busy (cmdAccess w)) :=
  gives_raise_of_advance ((access_cmdAccess w s).trans (issue_busy hp))

/-- A new E_BUSY is that of the access itself, a CMD write or a legal MSGBUF write while BUSY = 1 (R217). -/
theorem AccessDoes.busy_mem_history {a a' : Access} {s t : State} (h : AccessDoes s a t)
    (hm : .raised .busy a' ∈ t.history) : .raised .busy a' ∈ s.history ∨
      (a' = a ∧ s.phase = .exec ∧ ((∃ w, a = cmdAccess w) ∨
        ∃ off n d, a = .write off n d ∧ 0x10000 ≤ off.toNat ∧ admitted s off.toNat n.bytes)) := by
  cases h with
  | reads | readRejected => exact .inl (by simpa using hm)
  | arg0 | arg1 | entropy | stores => exact .inl hm
  | issues hp _ hx => exact .inl (busy_mem_history_of_exec_idle (s := s.advance) hp hx hm)
  | writeRejected e hbusy =>
    rw [State.raise_history, List.mem_cons] at hm
    obtain hnew | hold := hm
    · obtain ⟨rfl, rfl⟩ := Event.raised.inj hnew
      obtain ⟨hp, ⟨rfl, rfl⟩ | ⟨i, hi⟩⟩ := hbusy rfl
      · exact .inr ⟨rfl, hp, .inl ⟨_, rfl⟩⟩
      · exact .inr ⟨rfl, hp, .inr ⟨_, _, _, rfl, State.admitted_of_target_buf hi⟩⟩
    · exact .inl hold

/-- Settles O14: a CMD write is dropped before decoding and a legal MSGBUF write at its first byte; of all an access
can do, only a rejected write records a new E_BUSY. -/
theorem busyDropsCmdAndMsgbufWrites : Obligations.BusyDropsCmdAndMsgbufWrites := by
  unfold Obligations.BusyDropsCmdAndMsgbufWrites
  refine ⟨fun w _ => gives_cmd_busy w, fun off n d s hp hoff hadm => ?_,
    fun _ _ _ _ h => (access_does h).busy_mem_history⟩
  obtain ⟨i, hi⟩ := State.target_buf_of_admitted hoff hadm
  exact gives_write_busy d hi hp

/-- The first error sets ERR and ERRCODE (R220). -/
theorem State.raise_of_err_eq_false {s : State} (h : s.err = false) (e : ErrCode) (a : Access) :
    s.raise e a = { s with err := true, errCode := e.code, history := .raised e a :: s.history } := by
  have herr : ¬ s.err = true := by simp [h]
  rw [State.raise, State.record, if_neg herr]

/-- A later error sets only ERRMULTI (R220). -/
theorem State.raise_of_err_eq_true {s : State} (h : s.err = true) (e : ErrCode) (a : Access) :
    s.raise e a = { s with errMulti := true, history := .raised e a :: s.history } := by
  rw [State.raise, State.record, if_pos h]

/-- Settles O11: the two cases of the record, and the codes. -/
theorem raisingAnErrorRecordsIt : Obligations.RaisingAnErrorRecordsIt := by
  unfold Obligations.RaisingAnErrorRecordsIt
  exact ⟨fun _ e a h => State.raise_of_err_eq_false h e a, fun _ e a h => State.raise_of_err_eq_true h e a,
    rfl, rfl, rfl, rfl, rfl, rfl, rfl, rfl⟩

/-- An 8-byte write to ENTROPY is R40's, the stamp moved on (10_state.md R40). -/
theorem access_write_entropy (v : Word) (s : State) :
    access (.write 0x20 .w8 v) s = .next (s.advance.writeEntropy 0x20 v) :=
  hostWrite_reg (off := 0x20) (n := .w8) (r := .entropy) v (s.advance.target_fixed (r := .entropy) (by simp))

/-- Settles O15: the write reaches ENTROPY in every phase, and ENT_FULL alone decides what it does. -/
theorem entropyWritesFillOrOverflow : Obligations.EntropyWritesFillOrOverflow := by
  unfold Obligations.EntropyWritesFillOrOverflow
  intro v s
  by_cases hf : s.entFull = true
  · rw [if_pos hf]
    exact gives_raise_of_advance ((access_write_entropy v s).trans (congrArg _ (if_pos hf)))
  · rw [if_neg hf]
    exact ⟨s.stamp + 1, (access_write_entropy v s).trans (congrArg _ (if_neg hf))⟩

end Sys2Proof.Machine
end

section
/-! The operand registers and the command in execution (10_state.md R38, R41; 70_reset_and_hazards.md R253,
R259). -/

namespace Sys2Proof.Machine

open Sys2Proof.Claims

/-- An 8-byte write to ARG0 replaces it in every phase, the stamp moved on (10_state.md R38). -/
theorem access_write_arg0 (v : Word) (s : State) :
    access (.write 0x28 .w8 v) s = .next { s.advance with arg0 := v } :=
  hostWrite_reg (off := 0x28) (n := .w8) (r := .arg0) v (s.advance.target_fixed (r := .arg0) (by simp))

/-- An 8-byte write to ARG1 replaces it in every phase, the stamp moved on (10_state.md R38). -/
theorem access_write_arg1 (v : Word) (s : State) :
    access (.write 0x30 .w8 v) s = .next { s.advance with arg1 := v } :=
  hostWrite_reg (off := 0x30) (n := .w8) (r := .arg1) v (s.advance.target_fixed (r := .arg1) (by simp))

/-- A command that issue puts in execution is latched with the operands of that instant (R41). -/
theorem latch_of_exec_idle {i : Instr} {s t : State} (hp : s.phase = .idle) (h : exec i s = .next t)
    (ht : t.phase = .exec) : t.latch = ⟨i, s.arg0, s.arg1⟩ := by
  rcases exec_issues hp h with ⟨-, rfl⟩ | ⟨-, e, -, rfl⟩ | ⟨-, -, rfl⟩
  · simp [hp] at ht
  · simp [hp] at ht
  · exact s.accept_latch i

/-- The part of a command that runs while PHASE = EXEC (R253; log entries 10 and 12). -/
def completion : Instr → State → Result
  | .seeda => completeSeeda
  | .loadiva => completeLoadiva
  | .seedb => completeSeedb
  | .loadsecb => completeLoadsecb
  | .newa c => completeNewa c
  | .writea c off len => completeWritea c off len
  | .fina c => completeFina c
  | .newb c => completeNewb c
  | .writeb c off len => completeWriteb c off len
  | .finb c => completeFinb c
  | .fin2b c => completeFin2b c
  | .fin2a c => completeFin2a c
  | .dual => completeDual
  | .clrerr => fun s => .next (s.raise .busy (cmdWrite .clrerr))

/-- While PHASE = EXEC every command runs its completion (R253). -/
theorem exec_eq_completion {i : Instr} {s : State} (hp : s.phase = .exec) : exec i s = completion i s := by
  cases i with
  | clrerr => simp only [exec, execClrerr, hp, completion]
  | _ => exact command_exec hp

section mapNext
variable {F : State → State} {s t : State}

/-- A completion on a slot commutes with a change of state that leaves the slot. -/
theorem withSlot_mapNext {c : Nat} {k l : Ctx → Result} (hc : t.ctxs[c]? = s.ctxs[c]?)
    (hk : ∀ x, l x = mapNext F (k x)) : withSlot c t l = mapNext F (withSlot c s k) := by
  unfold withSlot
  rw [hc]
  cases s.ctxs[c]? with
  | none => rfl
  | some x => exact hk x

/-- A completion on a slice commutes with a change of state that leaves MSGBUF. -/
theorem withSlice_mapNext {off len : Nat} {k l : List Byte → Result} (hm : t.msgbufSize = s.msgbufSize)
    (hb : t.memRead off len = s.memRead off len) (hk : ∀ b, l b = mapNext F (k b)) :
    withSlice off len t l = mapNext F (withSlice off len s k) := by
  unfold withSlice
  rw [hm, hb, hk, apply_ite (mapNext F)]
  rfl

end mapNext

/-- ARG0 and ARG1 rewritten, each by a function of its old value, so that either can be kept (R259). -/
def State.mapArgs (f g : Word → Word) (s : State) : State := { s with arg0 := f s.arg0, arg1 := g s.arg1 }

section mapArgs
variable (f g : Word → Word) (s : State)

/-- Entropy is taken without the operand registers (40_seedgen.md R101). -/
theorem State.takeEntropy_mapArgs :
    (s.mapArgs f g).takeEntropy = s.takeEntropy.map fun p => (p.1, p.2.mapArgs f g) := by
  cases h : s.entFull with
  | false => rw [State.takeEntropy_empty h, State.takeEntropy_empty (s := s.mapArgs f g) h, Option.map_none]
  | true =>
    rw [State.takeEntropy_full h, State.takeEntropy_full (s := s.mapArgs f g) h]
    rfl

/-- An error is raised without the operand registers (60_exceptions.md R220). -/
theorem State.raise_mapArgs (e : ErrCode) (a : Access) :
    (s.mapArgs f g).raise e a = (s.raise e a).mapArgs f g := by
  cases h : s.err with
  | false =>
    rw [State.raise_of_err_eq_false h, State.raise_of_err_eq_false (s := s.mapArgs f g) h]
    rfl
  | true =>
    rw [State.raise_of_err_eq_true h, State.raise_of_err_eq_true (s := s.mapArgs f g) h]
    rfl

/-- A completion neither reads nor writes the operand registers: its operands are LATCH's (R38, R259). -/
theorem completion_mapArgs (i : Instr) :
    completion i (s.mapArgs f g) = mapNext (State.mapArgs f g) (completion i s) := by
  cases i with
  | loadiva | loadsecb | dual => rfl
  | newa | fina | newb | finb | fin2b | fin2a => exact withSlot_mapNext rfl fun _ => rfl
  | writea | writeb => exact withSlot_mapNext rfl fun _ => withSlice_mapNext rfl rfl fun _ => rfl
  | clrerr => exact congrArg Host.Outcome.next (s.raise_mapArgs f g ..)
  | seeda =>
    simp only [completion, completeSeeda, s.takeEntropy_mapArgs]
    cases s.takeEntropy <;> rfl
  | seedb =>
    simp only [completion, completeSeedb, s.takeEntropy_mapArgs]
    cases s.takeEntropy with
    | none => rfl
    | some p =>
      simp only [Option.map_some]
      split_ifs <;> rfl

/-- A command in execution answers the same whatever the operand registers hold, those registers aside
(R259). -/
theorem exec_mapArgs (i : Instr) (hp : s.phase = .exec) :
    exec i (s.mapArgs f g) = mapNext (State.mapArgs f g) (exec i s) := by
  rw [exec_eq_completion hp, exec_eq_completion (s := s.mapArgs f g) hp, completion_mapArgs]

end mapArgs

/-- Settles O58: the writes reach their registers, acceptance is the one case of issue that enters execution, and
completions do not see the operand registers. -/
theorem argWritesDoNotDisturbTheRunningCommand : Obligations.ArgWritesDoNotDisturbTheRunningCommand := by
  unfold Obligations.ArgWritesDoNotDisturbTheRunningCommand
  exact ⟨fun v s _ => ⟨⟨s.stamp + 1, access_write_arg0 v s⟩, ⟨s.stamp + 1, access_write_arg1 v s⟩⟩,
    fun _ _ _ => latch_of_exec_idle,
    fun i s v hp => ⟨exec_mapArgs (fun _ => v) id s i hp, exec_mapArgs id (fun _ => v) s i hp⟩⟩

end Sys2Proof.Machine
end

section
/-! The decoder and the assembler, each undoing the other (30_encoding.md R81 to R92). -/

namespace Sys2Proof

/-- A word with the OP byte of a row, agreeing with it on the bits its format compares, decodes to the row's command
on the word's operand fields (R88). -/
theorem decode_of_row {w : Word} {o : Op} (hop : fieldOp w = o.code)
    (hmask : w &&& o.format.mask = o.code.setWidth 64) :
    decode w = .ok (o.build (fieldCtx w) (fieldOff w) (fieldLen w)) := by
  rw [decode, hop, o.ofCode_code]
  exact if_pos hmask

/-- A command is its row's on its own operands; the operands its format lacks are not used (R82 to R85). -/
theorem Op.build_operands (i : Instr) : i.op.build i.ctx i.off i.len = i := by cases i <;> rfl

/-- The word of every well-formed command holds its opcode and operands in the fields of R81. -/
theorem encodedFields (i : Instr) : Laws.EncodedFields.Statement i := by
  cases i with
  | seeda => exact Laws.EncodedFields.seeda
  | loadiva => exact Laws.EncodedFields.loadiva
  | seedb => exact Laws.EncodedFields.seedb
  | loadsecb => exact Laws.EncodedFields.loadsecb
  | newa c => exact Laws.EncodedFields.newa c
  | writea c off len => exact Laws.EncodedFields.writea c off len
  | fina c => exact Laws.EncodedFields.fina c
  | newb c => exact Laws.EncodedFields.newb c
  | writeb c off len => exact Laws.EncodedFields.writeb c off len
  | finb c => exact Laws.EncodedFields.finb c
  | fin2b c => exact Laws.EncodedFields.fin2b c
  | fin2a c => exact Laws.EncodedFields.fin2a c
  | dual => exact Laws.EncodedFields.dual
  | clrerr => exact Laws.EncodedFields.clrerr

/-- Settles O3: the assembled word passes its own row's mask, and its fields are the command's operands. -/
theorem decodeUndoesEncode : Obligations.DecodeUndoesEncode := by
  unfold Obligations.DecodeUndoesEncode
  intro i hwf
  obtain ⟨hop, hctx, hlen, hoff, hmask⟩ := encodedFields i hwf
  rw [decode_of_row hop hmask, hctx, hoff, hlen, Op.build_operands]

/-- A row's command is well-formed on operands that fit their fields (R81). -/
theorem Op.wf_build {c off len : Nat} (hc : c ≤ 7) (hoff : off ≤ 65535) (hlen : len ≤ 65535) (o : Op) :
    (o.build c off len).wf = true := by
  cases o <;> simp [Op.build, Instr.wf, ctxFits, offFits, lenFits, hc, hoff, hlen]

/-- The operand fields of a word fit: CTX has 3 bits, OFF and LEN 16 (R81, R85). -/
theorem wf_of_decode_ok {w : Word} {i : Instr} (h : decode w = .ok i) : i.wf = true := by
  obtain ⟨o, -, -, rfl⟩ := row_of_decode_ok h
  exact o.wf_build (Nat.le_of_lt_succ (BitVec.isLt _)) (Nat.le_of_lt_succ (BitVec.isLt _))
    (Nat.le_of_lt_succ (BitVec.isLt _))

/-- Settles O4: the operands are read from fields of their own width, and the row's mask leaves no other bit. -/
theorem encodeUndoesDecode : Obligations.EncodeUndoesDecode := by
  unfold Obligations.EncodeUndoesDecode
  exact fun _ _ h => ⟨wf_of_decode_ok h, Machine.encode_of_decode_ok h⟩

/-- Settles O2: the decoder, run on each word. -/
theorem specWordsDecode : Obligations.SpecWordsDecode := by
  unfold Obligations.SpecWordsDecode
  exact ⟨by decide, by decide, by decide, by decide, by decide, by decide, by decide, by decide⟩

end Sys2Proof
end

section
/-! The register map and the accesses that go through it (10_state.md R20, R21, R37, R38), and the bytes of
MSGBUF under every width (20_memory.md R67). -/

namespace Sys2Proof.Machine

open Sys2Proof.Claims

/-- The fixed registers, one every 8 bytes (R20). -/
def Reg.fixed (k : Nat) : Reg :=
  ([.id, .param, .status, .cmd, .entropy, .arg0, .arg1, .res0, .res1, .iva0, .iva1, .secb, .secb2] : List Reg).getD
    k .id

/-- The registers of slot `c`, one every 8 bytes (R20). -/
def Reg.ofSlot (c k : Nat) : Reg :=
  ([.ctxTag c, .ctxW0 c, .ctxW1 c, .ctxW2 c, .ctxW3 c] : List Reg).getD k (.ctxTag c)

/-- The map read from an offset: 8 bytes from one register to the next, 0x40 from one slot to the next (R20). -/
def Reg.ofOffset (off : Nat) : Reg :=
  if off < 0x100 then Reg.fixed (off / 8) else Reg.ofSlot ((off - 0x100) / 0x40) ((off - 0x100) % 0x40 / 8)

theorem Reg.ofOffset_slot (c : Nat) {k : Nat} (hk : k < 8) :
    Reg.ofOffset (0x100 + 8 * k + 0x40 * c) = Reg.ofSlot c k := by
  have hregion : ¬ 0x100 + 8 * k + 0x40 * c < 0x100 := by omega
  have hslot : (0x100 + 8 * k + 0x40 * c - 0x100) / 0x40 = c := by omega
  have hfield : (0x100 + 8 * k + 0x40 * c - 0x100) % 0x40 / 8 = k := by omega
  rw [Reg.ofOffset, if_neg hregion, hslot, hfield]

/-- The map read from a register's offset gives the register back. -/
theorem Reg.ofOffset_offset (r : Reg) : Reg.ofOffset r.offset = r := by
  cases r with
  | ctxTag c => exact Reg.ofOffset_slot c (k := 0) (by decide)
  | ctxW0 c => exact Reg.ofOffset_slot c (k := 1) (by decide)
  | ctxW1 c => exact Reg.ofOffset_slot c (k := 2) (by decide)
  | ctxW2 c => exact Reg.ofOffset_slot c (k := 3) (by decide)
  | ctxW3 c => exact Reg.ofOffset_slot c (k := 4) (by decide)
  | _ => rfl

/-- No two registers share an offset (R20). -/
theorem Reg.offset_injective : Function.Injective Reg.offset :=
  Function.LeftInverse.injective Reg.ofOffset_offset

/-- A register of the map is found at its offset (R37). -/
theorem regAt_offset {nctx : Nat} {r : Reg} (h : exists_ nctx r) : regAt nctx r.offset = some r := by
  have hfound : ((regMap nctx).find? fun r' => r'.offset == r.offset).isSome :=
    List.find?_isSome.mpr ⟨r, mem_regMap_iff.mpr h, beq_self_eq_true _⟩
  obtain ⟨r', hr'⟩ := Option.isSome_iff_exists.mp hfound
  have hoff : r'.offset = r.offset := by simpa using List.find?_some hr'
  rw [regAt, hr', Reg.offset_injective hoff]

/-- Settles O17: what is found has the offset and is listed; what is listed is found, for offsets tell registers
apart. -/
theorem registerMapIsExact : Obligations.RegisterMapIsExact := by
  unfold Obligations.RegisterMapIsExact
  intro nctx off r
  constructor
  · intro h
    exact ⟨by simpa using List.find?_some h, mem_regMap_iff.mp (List.mem_of_find?_eq_some h)⟩
  · rintro ⟨rfl, h⟩
    exact regAt_offset h

/-- An 8-byte access reaches every register of the instantiation inside the register region (R20). -/
theorem State.target_of_exists {s : State} {r : Reg} (h : exists_ s.ctxs.length r) (hlt : r.offset < 0x10000) :
    s.target r.offset 8 = some (.reg r) :=
  State.target_reg (regAt_offset h) hlt r.offset_mod_eight

/-- Settles O20: both operand registers take the write in every phase, and a read-only register that exists is
reached by the write that raises E_ACCESS. -/
theorem registerWritesFollowTheAccessKind : Obligations.RegisterWritesFollowTheAccessKind := by
  unfold Obligations.RegisterWritesFollowTheAccessKind
  refine ⟨fun v s => ⟨⟨s.stamp + 1, access_write_arg0 v s⟩, ⟨s.stamp + 1, access_write_arg1 v s⟩⟩,
    fun r off v s hk hex hoff hlt => ?_⟩
  exact gives_write_ro hk (hoff ▸ State.target_of_exists hex hlt) v

/-- The registers of a slot stand below offset 0x300, inside the register region (R20). -/
theorem Reg.offset_lt_of_regSlot {r : Reg} {c : Nat} (h : regSlot r = some c) (hc : c < 8) : r.offset < 0x10000 := by
  cases r <;> simp only [regSlot, Option.some.injEq, reduceCtorEq] at h <;> simp only [Reg.offset] <;> omega

/-- A register of an existing slot reads its value (R20, R21). -/
theorem readsAs_slot {s : State} {c : Nat} {x : Ctx} (hc : c < 8) (hx : s.ctxs[c]? = some x) {r : Reg}
    (h : regSlot r = some c) : readsAs s r.offset (s.readReg r) := by
  refine readsAs_of_target (State.target_of_exists (fun d hd => ?_) (Reg.offset_lt_of_regSlot h hc))
  obtain rfl : d = c := Option.some.inj (hd.symm.trans h)
  exact (List.getElem?_eq_some_iff.mp hx).1

theorem State.ctxField_of_getElem? {s : State} {c : Nat} {x : Ctx} (hx : s.ctxs[c]? = some x) (f : Ctx → Word) :
    s.ctxField c f = f x := by
  rw [State.ctxField, hx]

/-- Settles O16: every register of the map is reached at its offset, those of a slot where the slot exists. -/
theorem registersReadTheirValues : Obligations.RegistersReadTheirValues := by
  unfold Obligations.RegistersReadTheirValues
  intro s
  refine ⟨readsAs_fixed s (r := .id) ?_, readsAs_fixed s (r := .param) ?_, readsAs_fixed s (r := .status) ?_,
    readsAs_fixed s (r := .cmd) ?_, readsAs_fixed s (r := .entropy) ?_, readsAs_fixed s (r := .arg0) ?_,
    readsAs_fixed s (r := .arg1) ?_, readsAs_fixed s (r := .res0) ?_, readsAs_fixed s (r := .res1) ?_,
    readsAs_fixed s (r := .iva0) ?_, readsAs_fixed s (r := .iva1) ?_, readsAs_fixed s (r := .secb) ?_,
    readsAs_fixed s (r := .secb2) ?_, fun c x hc hx => ?slot⟩
  case slot =>
    have hread : ∀ (r : Reg) (f : Ctx → Word), regSlot r = some c → s.readReg r = s.ctxField c f →
        readsAs s r.offset (f x) := fun r f hr hf =>
      State.ctxField_of_getElem? hx f ▸ hf ▸ readsAs_slot hc hx hr
    have htag : readsAs s (0x100 + 0x40 * c) x.tag.code := hread (.ctxTag c) (fun x => x.tag.code) rfl rfl
    refine ⟨?_, hread (.ctxW0 c) Ctx.w0 rfl rfl, hread (.ctxW1 c) Ctx.w1 rfl rfl,
      hread (.ctxW2 c) Ctx.w2 rfl rfl, hread (.ctxW3 c) Ctx.w3 rfl rfl⟩
    cases hcode : x.tag <;>
    · rw [hcode] at htag
      exact htag
  all_goals simp

/-- A word is its eight bytes (R8). -/
theorem eq_of_byteOf_eq {v w : Word} (h : ∀ j < 8, byteOf v j = byteOf w j) : v = w := by
  apply BitVec.eq_of_getLsbD_eq
  intro k hk
  have hbit := congrArg (fun b : Byte => b.getLsbD (k % 8)) (h (k / 8) (by omega))
  have hlt : k % 8 < 8 := Nat.mod_lt _ (by decide)
  simpa [byteOf, hlt, Nat.div_add_mod] using hbit

/-- Byte `j` of the assembly of a MSGBUF slice is the slice's byte `j` (R65). -/
theorem byteOf_le_memRead {s : State} {i n j : Nat} (hj : j < n) (h8 : j < 8) :
    byteOf (le (s.memRead i n)) j = s.byteAt (i + j) :=
  (byteOf_le _ h8).trans (s.memRead_getD hj)

/-- Settles O24: byte by byte, an assembly is what was read, and what is read is what was stored. -/
theorem mixedWidthsSeeTheSameBytes : Obligations.MixedWidthsSeeTheSameBytes := by
  unfold Obligations.MixedWidthsSeeTheSameBytes
  refine ⟨fun s i j hj => ?_, fun s i v => eq_of_byteOf_eq fun j hj => ?_⟩
  · calc byteOf (le (s.memRead i 8)) j
      _ = s.byteAt (i + j) := byteOf_le_memRead hj hj
      _ = lowByte (le (s.memRead (i + j) 1)) := (byteOf_le_memRead (j := 0) Nat.one_pos (by decide)).symm
  · calc byteOf (le ((s.memWrite i 8 v).memRead i 8)) j
      _ = (s.memWrite i 8 v).byteAt (i + j) := byteOf_le_memRead hj hj
      _ = byteOf v j := State.byteAt_memWrite hj

end Sys2Proof.Machine
end

section
/-! What a command changes, at issue and at completion, and what it leaves (60_exceptions.md R210, R221; 10_state.md
R30, R31, R34, R39; sections 2 of 40_seedgen.md to 43_dualdigest.md). -/

namespace Sys2Proof.Machine

open Sys2Proof.Claims

/-- An error changes the record and the model's history and nothing else (R210, R220). -/
theorem State.raise_frame (s : State) (e : ErrCode) (a : Access) : s.raise e a = { s with
    err := (s.raise e a).err, errMulti := (s.raise e a).errMulti, errCode := (s.raise e a).errCode
    history := (s.raise e a).history } := by
  cases h : s.err with
  | false => rw [State.raise_of_err_eq_false h]
  | true => rw [State.raise_of_err_eq_true h]

/-- The issue of a command changes PHASE, LATCH, the record and the model's history and nothing else (R221). -/
theorem exec_idle_frame {i : Instr} {s t : State} (hp : s.phase = .idle) (h : exec i s = .next t) :
    t = { s with
      phase := t.phase, latch := t.latch, err := t.err, errMulti := t.errMulti, errCode := t.errCode
      history := t.history } := by
  rcases exec_issues hp h with ⟨-, rfl⟩ | ⟨-, e, -, rfl⟩ | ⟨-, -, rfl⟩
  · rfl
  · rw [State.raise_phase, State.raise_latch]
    exact s.raise_frame e _
  · rfl

/-- Settles O12: of the three outcomes of an issue only a rejection leaves PHASE = IDLE without being CLRERR's. -/
theorem rejectedCommandsChangeOnlyTheRecord : Obligations.RejectedCommandsChangeOnlyTheRecord := by
  unfold Obligations.RejectedCommandsChangeOnlyTheRecord
  intro i s t hp hi h ht
  rcases exec_issues hp h with ⟨hclr, -⟩ | ⟨-, e, -, rfl⟩ | ⟨-, -, rfl⟩
  · exact absurd hclr hi
  · exact ⟨s.raise_err e _, s.raise_frame e _⟩
  · rw [State.accept_phase] at ht
    cases ht

/-- What a command writes, row by row of the opcode map: each part of the state named here is as before unless a row
that writes it completes (R30, R31, R34, R39, R40, R42). -/
structure WritesOnlyItsOwn (i : Instr) (s t : State) : Prop where
  factoryA : (s.phase = .exec → i.op ∉ [Op.seeda, .loadiva]) →
    t.iva0 = s.iva0 ∧ t.iva1 = s.iva1 ∧ t.keyedA = s.keyedA
  factoryB : (s.phase = .exec → i.op ∉ [Op.seedb, .loadsecb]) → sameFactoryB s t
  gen : (s.phase = .exec → i.op ≠ .seeda) → t.gen = s.gen
  entFull : (s.phase = .exec → i.op ∉ [Op.seeda, .seedb]) → t.entFull = s.entFull
  slot : ∀ c, (s.phase = .exec → i.op ∈ [Op.newa, .writea, .newb, .writeb] → i.ctx ≠ c) → t.ctxs[c]? = s.ctxs[c]?
  res0 : (s.phase = .exec → i.op ∉ [Op.fina, .finb, .fin2a, .fin2b, .dual]) → t.res0 = s.res0
  res1 : (s.phase = .exec → i.op ∉ [Op.fin2a, .fin2b, .dual]) → t.res1 = s.res1
  record : s.phase = .exec → i.op ≠ .clrerr → sameRecord s t ∧ t.latch = s.latch

/-- At issue a command writes none of these parts; at completion its row's alone. -/
theorem exec_writesOnlyItsOwn {i : Instr} {s t : State} (h : exec i s = .next t) : WritesOnlyItsOwn i s t := by
  cases hp : s.phase with
  | idle =>
    rw [exec_idle_frame hp h]
    constructor <;> simp [hp, sameFactoryB]
  | exec =>
    cases exec_completes hp h <;> constructor <;>
      simp +contextual [hp, Instr.op, Instr.ctx, sameFactoryB, sameRecord, List.getElem?_set_ne]

/-- A row of one list is no row of a list that shares none with it. -/
theorem Op.not_mem_of_mem {o : Op} {l m : List Op} (h : o ∈ l) (hdisjoint : ∀ p ∈ l, p ∉ m) : o ∉ m := hdisjoint o h

section frames
variable {i : Instr} {s t : State} (h : exec i s = .next t)
include h

theorem exec_sameHostSide : sameHostSide s t :=
  have hu := exec_untouched h
  ⟨hu.arg0, hu.arg1, hu.program, hu.turns, hu.stamp⟩

theorem exec_sameBytes : sameBytes s t :=
  have hu := exec_untouched h
  ⟨hu.msgbufSize, State.byteAt_congr hu.msgbuf hu.stamp⟩

theorem exec_sameFactoryA (hop : i.op ∉ [Op.seeda, .loadiva]) : sameFactoryA s t := by
  obtain ⟨hiva0, hiva1, hkeyed⟩ := (exec_writesOnlyItsOwn h).factoryA fun _ => hop
  exact ⟨hiva0, hiva1, hkeyed, (exec_writesOnlyItsOwn h).gen fun _ => List.ne_of_not_mem_cons hop⟩

theorem exec_sameFactoryB (hop : i.op ∉ [Op.seedb, .loadsecb]) : sameFactoryB s t :=
  (exec_writesOnlyItsOwn h).factoryB fun _ => hop

theorem exec_sameEntropy (hop : i.op ∉ [Op.seeda, .seedb]) : sameEntropy s t :=
  ⟨(exec_untouched h).entbuf, (exec_writesOnlyItsOwn h).entFull fun _ => hop⟩

theorem exec_sameResults (hop : s.phase = .exec → i.op ∉ [Op.fina, .finb, .fin2a, .fin2b, .dual]) :
    sameResults s t :=
  ⟨(exec_writesOnlyItsOwn h).res0 hop,
    (exec_writesOnlyItsOwn h).res1 fun hp hm => hop hp (List.mem_cons_of_mem _ (List.mem_cons_of_mem _ hm))⟩

theorem exec_sameCtxs (hop : s.phase = .exec → i.op ∉ [Op.newa, .writea, .newb, .writeb]) : t.ctxs = s.ctxs :=
  List.ext_getElem? fun c => (exec_writesOnlyItsOwn h).slot c fun hp hm => absurd hm (hop hp)

end frames

/-- The issue of a command that no check rejects accepts it (60_exceptions.md R221). -/
theorem exec_idle_accepts {i : Instr} {s : State} (hi : i ≠ .clrerr) (hp : s.phase = .idle)
    (hr : rejection i s = none) : exec i s = .next (s.accept i) := by
  rw [exec_idle hi hp, State.issueDecoded, hr]

/-- No check rejects a command without operands and without a keyed factory to read: format N (R213 to R216). -/
theorem rejection_of_format_n {i : Instr} (hf : i.op.format = .n) (s : State) : rejection i s = none := by
  cases i with
  | seeda | loadiva | seedb | loadsecb | dual | clrerr => rfl
  | _ => cases hf

/-- A command of format N other than CLRERR raises no error, at issue or at completion. -/
theorem exec_sameRecord_of_format_n {i : Instr} {s t : State} (hf : i.op.format = .n) (hi : i.op ≠ .clrerr)
    (h : exec i s = .next t) : sameRecord s t := by
  cases hp : s.phase with
  | exec => exact ((exec_writesOnlyItsOwn h).record hp hi).1
  | idle =>
    rw [exec_idle_accepts (mt (op_eq_clrerr_iff i).mpr hi) hp (rejection_of_format_n hf s)] at h
    cases h
    exact ⟨rfl, rfl, rfl, rfl⟩

/-- Settles O33: the rows of the four commands write no slot, no result and no record, and each only its own
factory. -/
theorem factoryCommandsFrame : Obligations.FactoryCommandsFrame := by
  unfold Obligations.FactoryCommandsFrame
  refine ⟨fun i s t hi h => ?_, fun i s t hi h => ?_, fun i s t hi h => ?_, fun i s t hi h => ?_⟩
  · have hop : i.op ∈ [Op.seeda, .loadiva, .seedb, .loadsecb] := List.mem_map_of_mem hi
    have hformat : i.op.format = .n ∧ i.op ≠ .clrerr := (by decide : ∀ o ∈ [Op.seeda, .loadiva, .seedb, .loadsecb],
      o.format = .n ∧ o ≠ .clrerr) i.op hop
    exact ⟨exec_sameCtxs h fun _ => Op.not_mem_of_mem hop (by decide),
      exec_sameResults h fun _ => Op.not_mem_of_mem hop (by decide), exec_sameHostSide h,
      exec_sameRecord_of_format_n hformat.1 hformat.2 h, exec_sameBytes h, (exec_untouched h).entbuf⟩
  · have hop : i.op ∈ [Op.seeda, .loadiva] := List.mem_map_of_mem hi
    exact exec_sameFactoryB h (Op.not_mem_of_mem hop (by decide))
  · have hop : i.op ∈ [Op.seedb, .loadsecb] := List.mem_map_of_mem hi
    exact exec_sameFactoryA h (Op.not_mem_of_mem hop (by decide))
  · have hop : i.op ∈ [Op.loadiva, .loadsecb] := List.mem_map_of_mem hi
    have hseeda := Op.not_mem_of_mem (m := [.seeda]) hop (by decide)
    exact ⟨exec_sameEntropy h (Op.not_mem_of_mem hop (by decide)),
      (exec_writesOnlyItsOwn h).gen fun _ => List.ne_of_not_mem_cons hseeda⟩

/-- Settles O34: the rows of the four commands write their own slot and nothing else, and that at completion. -/
theorem slotCommandsFrame : Obligations.SlotCommandsFrame := by
  unfold Obligations.SlotCommandsFrame
  intro i c off len s t hi h
  have hop : i.op ∈ [Op.newa, .writea, .newb, .writeb] := List.mem_map_of_mem hi
  have hctx : i.ctx = c := by
    have hmem : i.ctx ∈ [c, c, c, c] := List.mem_map_of_mem hi
    simpa using hmem
  have hclr := Op.not_mem_of_mem (m := [.clrerr]) hop (by decide)
  refine ⟨(exec_untouched h).slots, fun d hd => (exec_writesOnlyItsOwn h).slot d fun _ _ => hctx ▸ hd.symm,
    fun hp => exec_sameCtxs h fun hx => ?_,
    fun hp => (exec_writesOnlyItsOwn h).record hp (List.ne_of_not_mem_cons hclr),
    exec_sameResults h fun _ => Op.not_mem_of_mem hop (by decide), exec_sameHostSide h,
    exec_sameFactoryA h (Op.not_mem_of_mem hop (by decide)), exec_sameFactoryB h (Op.not_mem_of_mem hop (by decide)),
    exec_sameEntropy h (Op.not_mem_of_mem hop (by decide)), exec_sameBytes h⟩
  rw [hp] at hx
  cases hx

/-- Settles O35: the rows of the five commands write the results and nothing else, and that at completion. -/
theorem resultCommandsFrame : Obligations.ResultCommandsFrame := by
  unfold Obligations.ResultCommandsFrame
  refine ⟨fun i c s t hi h => ?_, fun i c s t hi h => ?_⟩
  · have hop : i.op ∈ [Op.fina, .finb, .fin2a, .fin2b, .dual] := List.mem_map_of_mem hi
    have hclr := Op.not_mem_of_mem (m := [.clrerr]) hop (by decide)
    refine ⟨exec_sameCtxs h fun _ => Op.not_mem_of_mem hop (by decide), fun hp => exec_sameResults h fun hx => ?_,
      fun hp => (exec_writesOnlyItsOwn h).record hp (List.ne_of_not_mem_cons hclr), exec_sameHostSide h,
      exec_sameFactoryA h (Op.not_mem_of_mem hop (by decide)),
      exec_sameFactoryB h (Op.not_mem_of_mem hop (by decide)),
      exec_sameEntropy h (Op.not_mem_of_mem hop (by decide)), exec_sameBytes h⟩
    rw [hp] at hx
    cases hx
  · have hop : i.op ∈ [Op.fina, .finb] := List.mem_map_of_mem hi
    exact (exec_writesOnlyItsOwn h).res1 fun _ => Op.not_mem_of_mem hop (by decide)

/-- What a host access leaves whatever it does: slots, factories and results (60_exceptions.md R224). -/
structure SparesWork (s t : State) : Prop where
  ctxs : t.ctxs = s.ctxs
  factoryA : sameFactoryA s t
  factoryB : sameFactoryB s t
  results : sameResults s t

/-- A host access, the issue of a command included, writes no slot, no factory and no result. -/
theorem AccessDoes.sparesWork {a : Access} {s t : State} (h : AccessDoes s a t) : SparesWork s t := by
  cases h with
  | issues hp _ hx =>
    rw [exec_idle_frame (s := s.advance) hp hx]
    exact ⟨rfl, ⟨rfl, rfl, rfl, rfl⟩, ⟨rfl, rfl, rfl⟩, ⟨rfl, rfl⟩⟩
  | _ => constructor <;> simp [sameFactoryA, sameFactoryB, sameResults]

/-- A host access while a command runs leaves the command and the written MSGBUF bytes (R217, R224). -/
theorem AccessDoes.sparesCommand {a : Access} {s t : State} (h : AccessDoes s a t) (hp : s.phase = .exec) :
    t.phase = .exec ∧ t.latch = s.latch ∧ t.msgbuf = s.msgbuf := by
  cases h with
  | issues hidle | stores hidle =>
    rw [hp] at hidle
    cases hidle
  | _ => simp [hp]

/-- Settles O13: while BUSY = 1 an access neither issues nor stores, and no other access reaches what is named. -/
theorem accessesSpareTheRunningCommand : Obligations.AccessesSpareTheRunningCommand := by
  unfold Obligations.AccessesSpareTheRunningCommand
  intro a s t hp h
  obtain ⟨hphase, hlatch, hbytes⟩ := (access_does h).sparesCommand hp
  obtain ⟨hctxs, hfactoryA, hfactoryB, hresults⟩ := (access_does h).sparesWork
  exact ⟨hphase, hlatch, hctxs, hbytes, (access_does h).sameInstantiation.2, hfactoryA, hfactoryB, hresults⟩

end Sys2Proof.Machine
end

section
/-! The completion of each command, with all it writes (sections 2 of 40_seedgen.md to 43_dualdigest.md;
44_control.md). -/

namespace Sys2Proof.Machine

open Sys2Proof.Claims

/-- A word is balanced where its population count is from 24 to 40 (00_scope.md R12). -/
theorem balanced_iff {v : Word} : balanced v = true ↔ 24 ≤ popcount v ∧ popcount v ≤ 40 := by
  simp [balanced]

/-- Settles O25: the waiting word is taken and the two generated words are stored. -/
theorem seedaKeysVariantA : Obligations.SeedaKeysVariantA := by
  unfold Obligations.SeedaKeysVariantA
  intro s hp hf
  rw [exec_eq_completion hp, completion, completeSeeda, State.takeEntropy_full hf]
  rfl

/-- SEEDB on a waiting word decides by its balance (40_seedgen.md R115). -/
theorem exec_seedb_of_full {s : State} (hp : s.phase = .exec) (hf : s.entFull = true) :
    exec .seedb s = .next (if balanced s.entbuf then
      { s with phase := .idle, entFull := false, keyedB := true, secb := s.entbuf, secb2 := deriveSecret2 s.entbuf }
      else { s with entFull := false }) := by
  rw [exec_eq_completion hp, completion, completeSeedb, State.takeEntropy_full hf, apply_ite Host.Outcome.next]
  rfl

/-- Settles O26: the interval of R12 decides, and its boundary words are counted. -/
theorem seedbTakesTheFirstBalancedWord : Obligations.SeedbTakesTheFirstBalancedWord := by
  unfold Obligations.SeedbTakesTheFirstBalancedWord
  refine ⟨fun s hp hf hlo hhi => ?_, fun s hp hf hout => ?_, by decide, by decide, by decide, by decide, by decide,
    by decide⟩
  · rw [exec_seedb_of_full hp hf, if_pos (balanced_iff.mpr ⟨hlo, hhi⟩)]
  · have hunbalanced : ¬ balanced s.entbuf = true := by rw [balanced_iff]; omega
    rw [exec_seedb_of_full hp hf, if_neg hunbalanced]

/-- Settles O27: the three completions read LATCH's operands and need no slot, no slice and no entropy. -/
theorem commandsOnTheLatchedOperands : Obligations.CommandsOnTheLatchedOperands := by
  unfold Obligations.CommandsOnTheLatchedOperands
  exact ⟨fun _ hp => exec_eq_completion hp, fun _ hp => exec_eq_completion hp, fun _ hp => exec_eq_completion hp⟩

/-- A completion on an existing slot runs on the slot's contents. -/
theorem exec_of_slot {i : Instr} {s : State} {c : Nat} {x : Ctx} {k : Ctx → Result} (hp : s.phase = .exec)
    (hx : s.ctxs[c]? = some x) (hk : completion i s = withSlot c s k) : exec i s = k x :=
  (exec_eq_completion hp).trans (hk.trans (withSlot_some k hx))

/-- Settles O28: a slot that exists is all the two completions need; its contents are not read. -/
theorem newCommandsMakeAFreshHasher : Obligations.NewCommandsMakeAFreshHasher := by
  unfold Obligations.NewCommandsMakeAFreshHasher
  exact ⟨fun c s hp hc => exec_of_slot (i := .newa c) hp (List.getElem?_eq_getElem hc) rfl,
    fun c s hp hc => exec_of_slot (i := .newb c) hp (List.getElem?_eq_getElem hc) rfl⟩

/-- Settles O29: the slot and the slice exist, and the completion is `writtenA` on them. -/
theorem writeaIngestsItsSlice : Obligations.WriteaIngestsItsSlice := by
  unfold Obligations.WriteaIngestsItsSlice
  exact fun c off len x s hp hx hl =>
    (exec_of_slot (i := .writea c off len) hp hx rfl).trans (withSlice_inside _ hl)

/-- Settles O31: the slot and the slice exist, and the completion is `writtenB` on them. -/
theorem writebIngestsItsSlice : Obligations.WritebIngestsItsSlice := by
  unfold Obligations.WritebIngestsItsSlice
  exact fun c off len x s hp hx hl =>
    (exec_of_slot (i := .writeb c off len) hp hx rfl).trans (withSlice_inside _ hl)

/-- Settles O30: each completion is a function of the slot's W0 and W1. -/
theorem finishCommandsWriteTheDigests : Obligations.FinishCommandsWriteTheDigests := by
  unfold Obligations.FinishCommandsWriteTheDigests
  exact fun c x s hp hx => ⟨exec_of_slot (i := .fina c) hp hx rfl, exec_of_slot (i := .fin2a c) hp hx rfl,
    exec_of_slot (i := .finb c) hp hx rfl, exec_of_slot (i := .fin2b c) hp hx rfl⟩

/-- CLRERR clears the record at its issue (44_control.md R200). -/
theorem exec_clrerr_idle {s : State} (hp : s.phase = .idle) : exec .clrerr s = .next s.clearErr := by
  simp only [exec, execClrerr, hp]

/-- CLRERR clears the record, or is turned away with E_BUSY (44_control.md R200). -/
theorem exec_clrerr_next {s t : State} (h : exec .clrerr s = .next t) :
    t = s.clearErr ∨ t = s.raise .busy (cmdWrite .clrerr) := by
  cases hp : s.phase with
  | idle => exact .inl (Host.Outcome.next.inj ((exec_clrerr_idle hp).symm.trans h)).symm
  | exec => exact .inr (Host.Outcome.next.inj ((exec_eq_completion hp).symm.trans h)).symm

/-- Settles O32: CLRERR's word is 0x7F; at issue it clears the record, and turned away it raises an error, which
writes the record and the history alone. -/
theorem clrerrClearsTheRecord : Obligations.ClrerrClearsTheRecord := by
  unfold Obligations.ClrerrClearsTheRecord
  refine ⟨fun s hp => exec_clrerr_idle hp, fun s hp => issue_decoded hp (by decide), fun s hp => issue_busy hp,
    fun s t h => ⟨?_, exec_sameBytes h⟩⟩
  obtain rfl | rfl := exec_clrerr_next h
  · rfl
  · exact s.raise_frame .busy _

/-- Settles O53: of SEEDB's outcomes only the one on a balanced word leaves PHASE = IDLE. -/
theorem seedbSecretsAreBalanced : Obligations.SeedbSecretsAreBalanced := by
  unfold Obligations.SeedbSecretsAreBalanced
  intro s t hp h ht
  cases exec_completes hp h with
  | seedbHolds | seedbDiscards => exact absurd (hp.symm.trans ht) (by decide)
  | seedb hf hb =>
    obtain ⟨hlo, hhi⟩ := balanced_iff.mp hb
    exact ⟨hlo, hhi, rfl, rfl, hf⟩

/-- Settles O54: FIN2B copies W1 of a legal slot, FIN2A and DUAL write what the mixer answers. -/
theorem secondaryDigestsAreNeverEmptySentinels : Obligations.SecondaryDigestsAreNeverEmptySentinels := by
  unfold Obligations.SecondaryDigestsAreNeverEmptySentinels
  refine ⟨fun c x s t hp hx htag hlegal h => ?_, fun c s t hp h => ?_, fun s t hp h => ?_⟩
  · obtain ⟨-, hlegalB⟩ := hlegal
    rw [exec_of_slot (i := .fin2b c) hp hx rfl] at h
    cases h
    exact (hlegalB htag).1
  · cases exec_completes hp h with
    | fin2a => exact lowByte_dual_ne_zero _
  · cases exec_completes hp h with
    | dual => exact lowByte_dual_ne_zero _

end Sys2Proof.Machine
end

section
/-! The moves of the three agents: which command a step runs, and who writes what (20_memory.md R71;
70_reset_and_hazards.md R250, R253 to R255; 30_encoding.md R93; 10_state.md R30, R31, R34, R39). -/

namespace Sys2Proof.Machine

open Sys2Proof.Claims

/-- The engine has a step while a command is in execution that does not wait for entropy (R253, R255). -/
theorem State.enabled_iff {s : State} : s.enabled = true ↔
    s.phase = .exec ∧ (s.latch.cmd = .seeda ∨ s.latch.cmd = .seedb → s.entFull = true) := by
  have hholding := State.holding_iff (s := s)
  rw [State.enabled, Bool.and_eq_true, State.busy_iff, Bool.not_eq_true', ← Bool.not_eq_true, hholding]
  grind

/-- Where the engine has a step, its turn is that step (R253). -/
theorem engineTurn_enabled {s : State} (h : s.enabled = true) : engineTurn s = exec s.latch.cmd s.advance := if_pos h

/-- Where it has none, its turn does nothing (R253). -/
theorem engineTurn_not_enabled {s : State} (h : s.enabled = false) : engineTurn s = .next s :=
  if_neg (by simp [h])

/-- A host turn whose statement writes a command's word to CMD while BUSY = 0 issues the command (10_state.md R29). -/
theorem step_of_cmd_write {s : State} {ts : List Turn} {ps : List Stmt} {w : Word} {i : Instr}
    (ht : s.turns = .host :: ts) (hps : s.program = .access (cmdAccess w) :: ps) (hp : s.phase = .idle)
    (hd : decode w = .ok i) : step s = exec i { s with turns := ts, program := ps, stamp := s.stamp + 1 } := by
  rw [step_cons ht, turn, hostTurn_access (s := { s with turns := ts }) hps, access_cmdAccess]
  exact issue_decoded hp hd

/-- Settles O6: the host's turn issues what its statement writes, a placed word is such a statement, and the engine's
turn, scheduled or by default, runs LATCH's command. -/
theorem stepRunsTheDecodedCommand : Obligations.StepRunsTheDecodedCommand := by
  unfold Obligations.StepRunsTheDecodedCommand
  refine ⟨fun s ts ps w i ht hps hp hd => step_of_cmd_write ht hps hp hd,
    fun s nbits w i hd => step_of_cmd_write (s := s.withFetchWord nbits w) rfl rfl rfl hd,
    fun s ts ht hp hent => ?_, fun s ht hp hent => ?_⟩
  · rw [step_cons ht]
    exact engineTurn_enabled (s := { s with turns := ts }) (State.enabled_iff.mpr ⟨hp, hent⟩)
  · have hen : s.enabled = true := State.enabled_iff.mpr ⟨hp, hent⟩
    rw [step_nil ht, State.defaultTurn, if_pos hen]
    exact engineTurn_enabled hen

/-- An engine's turn without a step changes nothing but the schedule. -/
theorem step_of_not_enabled {s : State} {ts : List Turn} (ht : s.turns = .engine :: ts) (he : s.enabled = false) :
    step s = .next { s with turns := ts } := by
  rw [step_cons ht]
  exact engineTurn_not_enabled (s := { s with turns := ts }) he

/-- Settles O7: ENT_REQ keeps a busy engine from its step, and an idle one has none. -/
theorem holdingAndIdleEnginesDoNothing : Obligations.HoldingAndIdleEnginesDoNothing := by
  unfold Obligations.HoldingAndIdleEnginesDoNothing
  refine ⟨fun s ts ht hp hcmd hent => ?_, fun s ts ht hp => step_of_not_enabled ht ?_⟩
  · obtain ⟨-, hreq, -⟩ := statusReadsItsFields s
    have hholding : s.holding = true := State.holding_iff.mpr ⟨hp, hcmd, hent⟩
    exact ⟨hreq.mpr ⟨hp, hcmd, hent⟩, step_of_not_enabled ht (by simp [State.enabled, hholding])⟩
  · simp [State.enabled, State.busy, hp]

/-- A polling loop reads STATUS and keeps its statement while the bit is 1 (30_encoding.md R93). -/
theorem State.poll_eq (k : Nat) (rest : List Stmt) (s : State) : s.poll k rest = { s with
    program := if s.status.getLsbD k then s.program else rest
    history := .returned 0x10 .w8 s.status :: s.history } := by
  simp only [State.poll, State.hostRead_status]
  split_ifs <;> rfl

theorem hostTurn_wait {s : State} {ps : List Stmt} (h : s.program = .wait :: ps) :
    hostTurn s = .next (s.poll 0 ps) := by
  simp only [hostTurn, h]

theorem hostTurn_waitent {s : State} {ps : List Stmt} (h : s.program = .waitent :: ps) :
    hostTurn s = .next (s.poll 2 ps) := by
  simp only [hostTurn, h]

/-- STATUS does not show the schedule (10_state.md R24). -/
theorem State.status_withTurns (s : State) (ts : List Turn) : State.status { s with turns := ts } = s.status := rfl

/-- Settles O8: the loops poll bits 0 and 2 of STATUS, which are BUSY and ENT_FULL. -/
theorem pollingLoopsRepeatWhileTheBitIsSet : Obligations.PollingLoopsRepeatWhileTheBitIsSet := by
  unfold Obligations.PollingLoopsRepeatWhileTheBitIsSet
  refine ⟨fun s ts ps ht hps => ?_, fun s ts ps ht hps => ?_⟩ <;>
    obtain ⟨hbusy, -, -, hfull, -⟩ := statusReadsItsFields s
  · rw [step_cons ht, turn, hostTurn_wait (s := { s with turns := ts }) hps, State.poll_eq, State.status_withTurns]
    simp only [hbusy, hps]
  · rw [step_cons ht, turn, hostTurn_waitent (s := { s with turns := ts }) hps, State.poll_eq,
      State.status_withTurns]
    simp only [hfull, hps]

/-- Settles O9: the host's turn accepts the command its word decodes to, and the accepted command is the engine's. -/
theorem acceptedCommandRunsInTheNextEngineStep : Obligations.AcceptedCommandRunsInTheNextEngineStep := by
  unfold Obligations.AcceptedCommandRunsInTheNextEngineStep
  intro s ts ps i ht hps hp hwf hi hr hent
  have hissue := step_of_cmd_write ht hps hp (decodeUndoesEncode i hwf)
  refine ⟨_, hissue.trans (exec_idle_accepts hi hp hr), rfl, ?_⟩
  rw [step_cons rfl]
  exact engineTurn_enabled (State.enabled_iff.mpr ⟨rfl, hent⟩)

/-- The agent that moves next is the schedule's, or the default one (log entry 1). -/
theorem State.nextAgent_cases (s : State) :
    (s.turns = [] ∧ s.nextAgent = s.defaultTurn) ∨ s.turns.head? = some s.nextAgent := by
  rcases hs : s.turns with _ | ⟨t, ts⟩ <;> simp [State.nextAgent, hs]

/-- An enabled engine that moves next makes its step of LATCH's command. -/
theorem engineRuns_of_nextAgent {s : State} (ha : s.nextAgent = .engine) (he : s.enabled = true) :
    EngineRuns s s.latch.cmd :=
  ⟨he, rfl, s.nextAgent_cases.imp And.left (ha ▸ ·)⟩

/-- Reset moves only where the schedule says so. -/
theorem resets_of_nextAgent {s : State} (ha : s.nextAgent = .reset) : Resets s := by
  rcases s.nextAgent_cases with ⟨-, hdefault⟩ | hhead
  · rw [ha, State.defaultTurn] at hdefault
    split_ifs at hdefault
  · exact hhead.trans (congrArg some ha)

/-- The engine's step of a command is its `exec` on the state with the turn taken and the stamp moved on. -/
theorem step_of_engineRuns {s : State} {i : Instr} (h : EngineRuns s i) :
    step s = exec i (State.advance { s with turns := s.turns.tail }) := by
  obtain ⟨hen, rfl, hturn⟩ := h
  have hagent : s.nextAgent = .engine := by
    obtain hnil | hhead := hturn
    · simp [State.nextAgent, State.defaultTurn, hnil, hen]
    · simp [State.nextAgent, hhead]
  rw [step_eq, hagent]
  exact engineTurn_enabled hen

/-- A step resets, or is the engine's step of a command, or writes no slot, no factory and no result (R30, R31, R34,
R39). -/
theorem step_sparesWork {s t : State} (h : step s = .next t) : SparesWork s t ∨ Resets s ∨
    ∃ i, EngineRuns s i ∧ WritesOnlyItsOwn i (State.advance { s with turns := s.turns.tail }) t := by
  cases step_does h with
  | hostEnds | polls | holds => exact .inl ⟨rfl, ⟨rfl, rfl, rfl, rfl⟩, ⟨rfl, rfl, rfl⟩, ⟨rfl, rfl⟩⟩
  | accesses _ _ hdoes =>
    obtain ⟨hctxs, hfactoryA, hfactoryB, hresults⟩ := hdoes.sparesWork
    exact .inl ⟨hctxs, hfactoryA, hfactoryB, hresults⟩
  | engine ha he hx => exact .inr (.inr ⟨_, engineRuns_of_nextAgent ha he, exec_writesOnlyItsOwn hx⟩)
  | resets ha => exact .inr (.inl (resets_of_nextAgent ha))

section rows
variable {i : Instr} {c : Nat}

theorem eq_of_op_factoryA (h : i.op ∈ [Op.seeda, .loadiva]) : i = .seeda ∨ i = .loadiva := by
  cases i <;> simp [Instr.op] at h ⊢

theorem eq_of_op_factoryB (h : i.op ∈ [Op.seedb, .loadsecb]) : i = .seedb ∨ i = .loadsecb := by
  cases i <;> simp [Instr.op] at h ⊢

theorem eq_of_op_slot (h : i.op ∈ [Op.newa, .writea, .newb, .writeb]) (hc : i.ctx = c) :
    i = .newa c ∨ i = .newb c ∨ (∃ off len, i = .writea c off len) ∨ ∃ off len, i = .writeb c off len := by
  cases i <;> simp_all [Instr.op, Instr.ctx]

theorem eq_of_op_res0 (h : i.op ∈ [Op.fina, .finb, .fin2a, .fin2b, .dual]) :
    i = .dual ∨ ∃ c, i = .fina c ∨ i = .finb c ∨ i = .fin2a c ∨ i = .fin2b c := by
  cases i <;> simp [Instr.op] at h ⊢

theorem eq_of_op_res1 (h : i.op ∈ [Op.fin2a, .fin2b, .dual]) : i = .dual ∨ ∃ c, i = .fin2a c ∨ i = .fin2b c := by
  cases i <;> simp [Instr.op] at h ⊢

end rows

/-- Settles O55: of all a step can do, the engine's step alone writes a factory, and only of the factory's own rows. -/
theorem factoriesAreWrittenOnlyByTheirCommands : Obligations.FactoriesAreWrittenOnlyByTheirCommands := by
  unfold Obligations.FactoriesAreWrittenOnlyByTheirCommands
  intro s t h
  rcases step_sparesWork h with ⟨-, ⟨hiva0, hiva1, hkeyed, -⟩, hfactoryB, -⟩ | hreset | ⟨i, hruns, hwrites⟩
  · exact ⟨.inr (.inr (.inr ⟨hiva0, hiva1, hkeyed⟩)), .inr (.inr (.inr hfactoryB))⟩
  · exact ⟨.inr (.inr (.inl hreset)), .inr (.inr (.inl hreset))⟩
  · constructor
    · by_cases hop : i.op ∈ [Op.seeda, .loadiva]
      · obtain rfl | rfl := eq_of_op_factoryA hop
        · exact .inl hruns
        · exact .inr (.inl hruns)
      · exact .inr (.inr (.inr (hwrites.factoryA fun _ => hop)))
    · by_cases hop : i.op ∈ [Op.seedb, .loadsecb]
      · obtain rfl | rfl := eq_of_op_factoryB hop
        · exact .inl hruns
        · exact .inr (.inl hruns)
      · exact .inr (.inr (.inr (hwrites.factoryB fun _ => hop)))

/-- Settles O56: of all a step can do, the engine's step alone writes a slot, and only of a row that writes the slot it
names. -/
theorem slotsAreWrittenOnlyByTheirCommands : Obligations.SlotsAreWrittenOnlyByTheirCommands := by
  unfold Obligations.SlotsAreWrittenOnlyByTheirCommands
  intro s t c h hne
  rcases step_sparesWork h with hspares | hreset | ⟨i, hruns, hwrites⟩
  · exact absurd (congrArg (·[c]?) hspares.ctxs) hne
  · exact .inl hreset
  · have hown : i.op ∈ [Op.newa, .writea, .newb, .writeb] ∧ i.ctx = c := by
      by_contra hnot
      exact hne (hwrites.slot c fun _ hop hc => hnot ⟨hop, hc⟩)
    obtain rfl | rfl | ⟨off, len, rfl⟩ | ⟨off, len, rfl⟩ := eq_of_op_slot hown.1 hown.2
    · exact .inr (.inl hruns)
    · exact .inr (.inr (.inl hruns))
    · exact .inr (.inr (.inr (.inl ⟨off, len, hruns⟩)))
    · exact .inr (.inr (.inr (.inr ⟨off, len, hruns⟩)))

/-- Settles O57: of all a step can do, the engine's step alone writes a result, and only of the result's own rows; no
command touches MSGBUF. -/
theorem resultsAndMsgbufHaveTheirWriters : Obligations.ResultsAndMsgbufHaveTheirWriters := by
  unfold Obligations.ResultsAndMsgbufHaveTheirWriters
  refine ⟨fun s t h hne => ?_, fun s t h hne => ?_, fun i s t hruns h => ?_⟩
  · rcases step_sparesWork h with hspares | hreset | ⟨i, hruns, hwrites⟩
    · exact absurd hspares.results.1 hne
    · exact .inl hreset
    · have hown : i.op ∈ [Op.fina, .finb, .fin2a, .fin2b, .dual] :=
        by_contra fun hop => hne (hwrites.res0 fun _ => hop)
      obtain rfl | ⟨c, hc⟩ := eq_of_op_res0 hown
      · exact .inr (.inl hruns)
      · refine .inr (.inr ⟨c, ?_⟩)
        rcases hc with rfl | rfl | rfl | rfl <;> simp only [hruns, true_or, or_true]
  · rcases step_sparesWork h with hspares | hreset | ⟨i, hruns, hwrites⟩
    · exact absurd hspares.results.2 hne
    · exact .inl hreset
    · have hown : i.op ∈ [Op.fin2a, .fin2b, .dual] := by_contra fun hop => hne (hwrites.res1 fun _ => hop)
      obtain rfl | ⟨c, rfl | rfl⟩ := eq_of_op_res1 hown
      · exact .inr (.inl hruns)
      · exact .inr (.inr ⟨c, .inl hruns⟩)
      · exact .inr (.inr ⟨c, .inr hruns⟩)
  · rw [step_of_engineRuns hruns] at h
    exact (exec_untouched h).msgbuf

end Sys2Proof.Machine
end

section
/-! The data operations (00_scope.md R10 to R13), the fallback of IV generation (40_seedgen.md R111) and the splitting
of Variant A's input (41_bittwidhash.md R138). -/

namespace Sys2Proof.Machine

open Sys2Proof.Claims

/-- Bit `k` moves up by the amount, and where that passes bit 63 it comes back in at the bottom (00_scope.md R10). -/
theorem getLsbD_rotl (v : Word) {r k : Nat} (hr : r < 64) (hk : k < 64) :
    (rotl v r).getLsbD ((k + r) % 64) = v.getLsbD k := by
  rw [rotl, BitVec.getLsbD_or, BitVec.getLsbD_shiftLeft, BitVec.getLsbD_ushiftRight]
  by_cases hwrap : k + r < 64
  · have hpast : v.getLsbD (64 - r + (k + r)) = false := BitVec.getLsbD_of_ge _ _ (by omega)
    simp [Nat.mod_eq_of_lt hwrap, hwrap, hpast]
  · have hmod : (k + r) % 64 = k + r - 64 := by omega
    have hlow : k + r - 64 < r := by omega
    have hback : 64 - r + (k + r - 64) = k := by omega
    simp [hmod, hlow, hback]

/-- A half of a 128-bit product fits a word. -/
theorem product_div_lt (a b : Word) : a.toNat * b.toNat / 2 ^ 64 < 2 ^ 64 :=
  Nat.div_lt_of_lt_mul (Nat.mul_lt_mul'' a.isLt b.isLt)

/-- Settles O36: a bit moves without or with a wrap, and the halves of the exact product fit their words. -/
theorem rotationAndProductAreExact : Obligations.RotationAndProductAreExact := by
  unfold Obligations.RotationAndProductAreExact
  refine ⟨fun v r k => getLsbD_rotl v, fun a b => ⟨toNat_mul128 a b, ?_, ?_⟩⟩
  · rw [lo64_mul128, BitVec.toNat_ofNat, Nat.mod_mod]
  · rw [hi64_mul128, BitVec.toNat_ofNat, Nat.mod_eq_of_lt (product_div_lt a b)]

/-- The zero generator state (40_seedgen.md R111). -/
def Gen.zero : Gen := ⟨0, 0, 0, 0⟩

theorem genRound_zero : genRound Gen.zero = Gen.zero := by decide

/-- No number of rounds leaves the zero state (R111). -/
theorem rounds_zero (n : Nat) : rounds n Gen.zero = Gen.zero := by
  induction n with
  | zero => rfl
  | succ n ih => rw [rounds, genRound_zero, ih]

/-- A search from the zero state ends in it, balanced or not (R111). -/
theorem search_zero (n : Nat) : search n Gen.zero = Gen.zero := by
  obtain ⟨k, hk⟩ := exists_searchStops n Gen.zero
  rw [hk.state, rounds_zero]

/-- Settles O39: the warm-up and both searches stay in the zero state. -/
theorem fallbackWordsCanBeUnbalanced : Obligations.FallbackWordsCanBeUnbalanced := by
  unfold Obligations.FallbackWordsCanBeUnbalanced
  refine ⟨rounds_zero, ?_, by decide⟩
  have hseed : ({ Gen.zero with g0 := Gen.zero.g0 ^^^ 0 } : Gen) = Gen.zero := by decide
  have hcand : cand Gen.zero = 0 := by decide
  change generateIv Gen.zero 0 = ⟨0, 0, Gen.zero⟩
  rw [generateIv, hseed, rounds_zero, search_zero, search_zero, hcand]

/-- The words of the full 8-byte chunks of a string (41_bittwidhash.md R132). -/
def chunkWords (b : List Byte) : List Word := (List.range (b.length / 8)).map fun i => le ((b.drop (8 * i)).take 8)

/-- A string of whole chunks gathers each once, the empty string among them (R132, R136). -/
theorem ingestA_of_aligned (h : HashPair) {b : List Byte} (hb : b.length % 8 = 0) :
    ingestA h b = (chunkWords b).foldl gather h := by
  by_cases hlen : 8 ≤ b.length
  · rw [ingestA_of_eight_le h hlen, longWords_of_aligned hlen hb, chunkWords]
  · obtain rfl : b = [] := List.length_eq_zero_iff.mp (by omega)
    rfl

/-- The chunks of an aligned front stand alone: a long string behind it contributes its own words (R138). -/
theorem longWords_append {x b : List Byte} (hx : x.length % 8 = 0) (hb : 8 ≤ b.length) :
    longWords (x ++ b) = chunkWords x ++ longWords b := by
  obtain ⟨m, hm⟩ : ∃ m, x.length = 8 * m := ⟨x.length / 8, by omega⟩
  have hcount : ((x ++ b).length - 1) / 8 = m + (b.length - 1) / 8 := by rw [List.length_append]; omega
  have htail : (x ++ b).length - 8 = x.length + (b.length - 8) := by rw [List.length_append]; omega
  have hfront : (List.range m).map (fun i => le (((x ++ b).drop (8 * i)).take 8)) = chunkWords x := by
    have hchunks : x.length / 8 = m := by omega
    rw [chunkWords, hchunks]
    refine List.map_congr_left fun i hi => ?_
    have hi : i < m := List.mem_range.mp hi
    rw [List.drop_append_of_le_length (by omega), List.take_append_of_le_length (by rw [List.length_drop]; omega)]
  have hback : ∀ i, (x ++ b).drop (8 * (m + i)) = b.drop (8 * i) := fun i => by
    rw [Nat.mul_add, ← hm, List.drop_length_add_append]
  simp only [longWords, hcount, htail, List.range_add, List.map_append, List.map_map, hfront, Function.comp_def, hback,
    List.drop_length_add_append, List.append_assoc]

/-- An aligned slice and a last slice that is aligned or long ingest as their concatenation (R138). -/
theorem ingestA_append (h : HashPair) {x b : List Byte} (hx : x.length % 8 = 0)
    (hb : b.length % 8 = 0 ∨ 8 ≤ b.length) : ingestA (ingestA h x) b = ingestA h (x ++ b) := by
  by_cases hlen : 8 ≤ b.length
  · rw [ingestA_of_aligned h hx, ingestA_of_eight_le _ hlen,
      ingestA_of_eight_le h (by rw [List.length_append]; omega), longWords_append hx hlen, List.foldl_append]
  · obtain rfl : b = [] := List.length_eq_zero_iff.mp (by omega)
    rw [ingestA_nil, List.append_nil]

/-- Settles O44: the last aligned slice joins what follows it, which is then itself aligned or long; the two other
splits differ from the zero state. -/
theorem alignedSplitsIngestAsOneString : Obligations.AlignedSplitsIngestAsOneString := by
  unfold Obligations.AlignedSplitsIngestAsOneString
  refine ⟨fun h bs b hbs hb => ?_, ⟨⟨0, 0⟩, by decide⟩, ⟨⟨0, 0⟩, by decide⟩⟩
  induction bs using List.reverseRecOn generalizing b with
  | nil => rfl
  | append_singleton bs x ih =>
    have hx : x.length % 8 = 0 := hbs x (by simp)
    have hjoined : (x ++ b).length % 8 = 0 ∨ 8 ≤ (x ++ b).length := by rw [List.length_append]; omega
    calc ingestA ((bs ++ [x]).foldl ingestA h) b
      _ = ingestA (ingestA (bs.foldl ingestA h) x) b := by rw [List.foldl_concat]
      _ = ingestA (bs.foldl ingestA h) (x ++ b) := ingestA_append _ hx hb
      _ = ingestA h (bs.flatten ++ (x ++ b)) := ih (x ++ b) (fun y hy => hbs y (List.mem_append_left _ hy)) hjoined
      _ = ingestA h ((bs ++ [x]).flatten ++ b) := by rw [List.flatten_concat, List.append_assoc]

end Sys2Proof.Machine
end

section
/-! The invariant: reset meets it, every move keeps it, and from it no step stops (00_scope.md R3, R4; 10_state.md R36,
R45; 20_memory.md R60; 42_whyhash.md R168; 60_exceptions.md R210, R223). -/

namespace Sys2Proof.Machine

open Sys2Proof.Claims

/-- A free slot is legal. -/
theorem Ctx.free_legal : Ctx.free.Legal := by decide

/-- The slot NEWA leaves has W2 = W3 = 0 (10_state.md R36). -/
theorem freshA_legal (iva0 iva1 : Word) : (freshA iva0 iva1).Legal := ⟨fun _ => ⟨rfl, rfl⟩, nofun⟩

/-- The slot NEWB leaves starts from K_B, whose low byte is not 0, and holds a derived secret (42_whyhash.md R162,
R169). -/
theorem freshB_legal {secret secret2 : Word} (h : secret2 = deriveSecret2 secret) : (freshB secret secret2).Legal :=
  ⟨nofun, fun _ => ⟨(by decide : lowByte kB ≠ 0), h⟩⟩

/-- WRITEA on a Variant A slot leaves W2 and W3 (41_bittwidhash.md R140). -/
theorem writtenA_legal {x : Ctx} (hx : x.Legal) (htag : x.tag = .a) (b : List Byte) : (writtenA x b).Legal :=
  ⟨hx.1, fun h => by cases htag.symm.trans h⟩

/-- WRITEB leaves W2 and W3 and guards W1 (42_whyhash.md R166, R170). -/
theorem writtenB_legal {x : Ctx} (hx : x.Legal) (b : List Byte) : (writtenB x b).Legal :=
  ⟨hx.1, fun h => ⟨lowByte_guardLow_ne_zero _, (hx.2 h).2⟩⟩

theorem State.nctx_resetOf (nctx size : Nat) : (State.resetOf nctx size).nctx = nctx := List.length_replicate

/-- Reset of a legal instantiation meets the invariant (10_state.md R45). -/
theorem resetOf_inv {nctx size : Nat} (hn : 1 ≤ nctx ∧ nctx ≤ 8) (hm : 8 ≤ size ∧ size ≤ 65536) :
    (State.resetOf nctx size).Inv where
  params := by
    rw [State.LegalParams, State.nctx_resetOf]
    exact ⟨hn.1, hn.2, hm⟩
  msgbuf := ⟨List.Pairwise.nil, nofun⟩
  slots := fun _ hx => List.eq_of_mem_replicate hx ▸ Ctx.free_legal
  record := ⟨fun _ => ⟨rfl, rfl⟩, nofun⟩
  latch := nofun
  secret := (by decide : (0 : Word) = deriveSecret2 0)
  res1 := .inl rfl

/-- Settles O50: the default instantiation is legal. -/
theorem resetMeetsTheInvariant : Obligations.ResetMeetsTheInvariant := by
  unfold Obligations.ResetMeetsTheInvariant
  exact resetOf_inv (by decide) (by decide)

theorem State.nctx_setSlot_complete (s : State) (c : Nat) (x : Ctx) : (s.setSlot c x).complete.nctx = s.nctx :=
  List.length_set

section keeps
variable {s : State} (h : s.Inv)
include h

theorem State.Inv.schedule (ts : List Turn) (ps : List Stmt) : State.Inv { s with turns := ts, program := ps } :=
  { h with }

theorem State.Inv.advance : s.advance.Inv := { h with }

theorem State.Inv.observe (off : BitVec 17) (n : Width) (v : Word) : (s.observe off n v).Inv := { h with }

theorem State.Inv.args (v w : Word) : State.Inv { s with arg0 := v, arg1 := w } := { h with }

theorem State.Inv.entropy (v : Word) (b : Bool) : State.Inv { s with entbuf := v, entFull := b } := { h with }

theorem State.Inv.clearErr : s.clearErr.Inv := { h with record := ⟨fun _ => ⟨rfl, rfl⟩, nofun⟩ }

/-- An error leaves a legal record: the code of one of the eight errors (60_exceptions.md R211, R220). -/
theorem State.Inv.raise (e : ErrCode) (a : Access) : (s.raise e a).Inv := by
  cases herr : s.err with
  | true =>
    rw [State.raise_of_err_eq_true herr]
    exact { h with record := ⟨fun hf => (Bool.false_ne_true (hf.symm.trans herr)).elim, h.record.2⟩ }
  | false =>
    rw [State.raise_of_err_eq_false herr]
    have hcode : 1 ≤ e.code.toNat ∧ e.code.toNat ≤ 8 := by cases e <;> decide
    exact { h with record := ⟨nofun, fun _ => hcode⟩ }

/-- A store inside MSGBUF keeps it canonical and inside its size (20_memory.md R60, R64). -/
theorem State.Inv.memWrite {i n : Nat} (hle : i + n ≤ s.msgbufSize) (d : Word) : (s.memWrite i n d).Inv :=
  { h with
    msgbuf := by
      refine ⟨Memory.store_wf h.msgbuf.1 n, fun cell hcell => ?_⟩
      obtain hold | hnew := Memory.mem_store hcell
      · exact h.msgbuf.2 cell hold
      · exact hnew.2.trans_le hle }

/-- Acceptance latches a command that no check rejects (60_exceptions.md R221). -/
theorem State.Inv.accept {i : Instr} (hwf : i.wf = true) (hi : i ≠ .clrerr) (hr : rejection i s = none) :
    (s.accept i).Inv := { h with latch := fun _ => ⟨hwf, hi, hr⟩ }

/-- The issue of a well-formed command keeps the invariant. -/
theorem State.Inv.exec_idle {i : Instr} {t : State} (hp : s.phase = .idle) (hwf : i.wf = true)
    (hx : exec i s = .next t) : t.Inv := by
  obtain ⟨-, rfl⟩ | ⟨-, e, -, rfl⟩ | ⟨hi, hr, rfl⟩ := exec_issues hp hx
  · exact h.clearErr
  · exact h.raise e _
  · exact h.accept hwf hi hr

/-- A host access keeps the invariant; a word it issues decodes to a well-formed command. -/
theorem AccessDoes.inv {a : Access} {t : State} (hdoes : AccessDoes s a t) : t.Inv := by
  cases hdoes with
  | reads => exact h.observe ..
  | readRejected => exact (h.raise ..).observe ..
  | writeRejected => exact h.advance.raise ..
  | arg0 => exact h.advance.args ..
  | arg1 => exact h.advance.args ..
  | entropy => exact h.advance.entropy ..
  | stores _ htarget => exact h.advance.memWrite (State.buf_of_target htarget).2.2 _
  | issues hp hd hx => exact h.advance.exec_idle hp (wf_of_decode_ok hd) hx

/-- A slot that completes with legal contents keeps the invariant. -/
theorem State.Inv.setSlot_complete (c : Nat) {x : Ctx} (hx : x.Legal) : (s.setSlot c x).complete.Inv :=
  { h with
    latch := nofun
    params := by
      rw [State.LegalParams, State.nctx_setSlot_complete]
      exact h.params
    slots := fun y hy => (List.mem_or_eq_of_mem_set hy).elim (h.slots y) (· ▸ hx) }

end keeps

/-- An existing slot is legal. -/
theorem State.Inv.slot {s : State} (h : s.Inv) {c : Nat} {x : Ctx} (hx : s.ctxs[c]? = some x) : x.Legal :=
  h.slots x (List.mem_of_getElem? hx)

/-- The completion of a command that no check rejects keeps the invariant (60_exceptions.md R223). -/
theorem Completes.inv {s t : State} {i : Instr} (hdoes : Completes s i t) (h : s.Inv) (hi : i ≠ .clrerr)
    (hr : rejection i s = none) : t.Inv := by
  cases hdoes with
  | seedaHolds | seedbHolds => exact h
  | seeda | loadiva | fina | finb => exact { h with latch := nofun }
  | seedb | loadsecb => exact { h with latch := nofun, secret := rfl }
  | seedbDiscards => exact h.entropy ..
  | newa => exact h.setSlot_complete _ (freshA_legal ..)
  | newb => exact h.setSlot_complete _ (freshB_legal h.secret)
  | writea hx => exact h.setSlot_complete _ (writtenA_legal (h.slot hx) (tag_of_rejection hr rfl rfl hx) _)
  | writeb hx => exact h.setSlot_complete _ (writtenB_legal (h.slot hx) _)
  | fin2b hx => exact { h with latch := nofun, res1 := .inr ((h.slot hx).2 (tag_of_rejection hr rfl rfl hx)).1 }
  | fin2a | dual => exact { h with latch := nofun, res1 := .inr (lowByte_dual_ne_zero _) }
  | clrerr => exact absurd rfl hi

/-- Reset keeps the instantiation legal and clears the rest. -/
theorem State.Inv.doReset {s : State} (h : s.Inv) : s.doReset.Inv :=
  { resetOf_inv ⟨h.params.1, h.params.2.1⟩ h.params.2.2 with }

/-- The command of an enabled engine is one that no check rejects (60_exceptions.md R223). -/
theorem State.Inv.enabled {s : State} (h : s.Inv) (he : s.enabled = true) :
    s.phase = .exec ∧ s.latch.cmd ≠ .clrerr ∧ rejection s.latch.cmd s = none := by
  obtain ⟨hp, -⟩ := State.enabled_iff.mp he
  obtain ⟨-, hcmd, hr⟩ := h.latch hp
  exact ⟨hp, hcmd, hr⟩

/-- Settles O49: an access, the completion of a legal latch and a reset each keep the invariant, and the rest of a step
is the schedule and the program. -/
theorem stepKeepsTheInvariant : Obligations.StepKeepsTheInvariant := by
  unfold Obligations.StepKeepsTheInvariant
  intro s t h hstep
  have hturn : State.Inv { s with turns := s.turns.tail } := h.schedule _ s.program
  cases step_does hstep with
  | hostEnds | holds => exact hturn
  | polls _ ps v => exact (h.schedule _ ps).observe ..
  | accesses _ _ hdoes => exact hdoes.inv (h.schedule ..)
  | engine _ he hx =>
    obtain ⟨hp, hcmd, hr⟩ := hturn.advance.enabled he
    exact (exec_completes hp hx).inv hturn.advance hcmd hr
  | resets => exact hturn.advance.doReset

/-- The completion of a command that no check rejects answers a next state (60_exceptions.md R223). -/
theorem completion_next {i : Instr} {s : State} (hr : rejection i s = none) : ∃ t, completion i s = .next t := by
  cases i with
  | loadiva | loadsecb | dual | clrerr => exact ⟨_, rfl⟩
  | newa | fina | newb | finb | fin2b | fin2a =>
    obtain ⟨x, hx⟩ := slot_of_rejection hr rfl
    exact ⟨_, withSlot_some _ hx⟩
  | writea | writeb =>
    obtain ⟨x, hx⟩ := slot_of_rejection hr rfl
    exact ⟨_, (withSlot_some _ hx).trans (withSlice_inside _ (slice_of_rejection hr rfl))⟩
  | seeda =>
    rw [completion, completeSeeda]
    cases s.takeEntropy <;> exact ⟨_, rfl⟩
  | seedb =>
    rw [completion, completeSeedb]
    cases s.takeEntropy with
    | none => exact ⟨_, rfl⟩
    | some p => simp only [← apply_ite Host.Outcome.next, Host.Outcome.next.injEq, exists_eq']

/-- The write of a word to CMD answers a next state, whatever the word (60_exceptions.md R210). -/
theorem issue_next (w : Word) (s : State) : ∃ t, issue w s = .next t := by
  cases hp : s.phase with
  | exec => exact ⟨_, issue_busy hp⟩
  | idle =>
    cases hd : decode w with
    | error e => exact ⟨_, issue_illegal hp hd⟩
    | ok i => exact ⟨_, (issue_decoded hp hd).trans (exec_eq_checkedIssue hp)⟩

/-- A write to a register answers a next state (R210). -/
theorem writeReg_next (off : BitVec 17) (v : Word) (r : Reg) (s : State) : ∃ t, writeReg off v r s = .next t := by
  cases r with
  | cmd => exact issue_next v s
  | _ => exact ⟨_, rfl⟩

/-- A host access answers a next state, legal or not (R210). -/
theorem access_next (a : Access) (s : State) : ∃ t, access a s = .next t := by
  cases a with
  | read off n => exact ⟨_, rfl⟩
  | write off n d =>
    rw [access]
    rcases htarget : s.advance.target off.toNat n.bytes with _ | ⟨r | i⟩
    · exact ⟨_, hostWrite_none d htarget⟩
    · rw [hostWrite_reg d htarget]
      exact writeReg_next off d r s.advance
    · rw [hostWrite_buf d htarget]
      split_ifs <;> exact ⟨_, rfl⟩

/-- A host turn answers a next state. -/
theorem hostTurn_next (s : State) : ∃ t, hostTurn s = .next t := by
  rcases hps : s.program with _ | ⟨a | _ | _, ps⟩
  · exact ⟨s, by simp only [hostTurn, hps]⟩
  · rw [hostTurn_access hps]
    exact access_next ..
  · exact ⟨_, hostTurn_wait hps⟩
  · exact ⟨_, hostTurn_waitent hps⟩

/-- The engine's turn answers a next state where the invariant holds. -/
theorem engineTurn_next {s : State} (h : s.Inv) : ∃ t, engineTurn s = .next t := by
  cases he : s.enabled with
  | false => exact ⟨s, engineTurn_not_enabled he⟩
  | true =>
    obtain ⟨hp, -, hr⟩ := h.enabled he
    rw [engineTurn_enabled he, exec_eq_completion (s := s.advance) hp]
    exact completion_next hr

/-- Settles O51: only the engine's turn could stop, and the invariant says that no check rejects its command. -/
theorem invariantStatesNeverStop : Obligations.InvariantStatesNeverStop := by
  unfold Obligations.InvariantStatesNeverStop
  intro s h
  rw [step_eq]
  cases s.nextAgent with
  | host => exact hostTurn_next _
  | engine => exact engineTurn_next (h.schedule _ s.program)
  | reset => exact ⟨_, rfl⟩

/-- With entropy where it needs it, a command other than CLRERR completes, or is SEEDB on an unbalanced word
(40_seedgen.md R115). -/
theorem Completes.phase {s t : State} {i : Instr} (hdoes : Completes s i t) (hp : s.phase = .exec)
    (hi : i ≠ .clrerr) (hent : i = .seeda ∨ i = .seedb → s.entFull = true) :
    t.phase = .idle ∨ (i = .seedb ∧ balanced s.entbuf = false ∧ t.phase = .exec) := by
  cases hdoes with
  | seedaHolds hf | seedbHolds hf => exact absurd (hf.symm.trans (hent (by simp))) Bool.false_ne_true
  | seedbDiscards _ hb => exact .inr ⟨rfl, hb, hp⟩
  | clrerr => exact absurd rfl hi
  | _ => exact .inl rfl

/-- Settles O52: the invariant gives the engine's step a next state, and a completion other than CLRERR's leaves the
record. -/
theorem enabledEngineStepCompletes : Obligations.EnabledEngineStepCompletes := by
  unfold Obligations.EnabledEngineStepCompletes
  intro s h he hturn
  obtain ⟨hp, hcmd, -⟩ := h.enabled he
  obtain ⟨-, hent⟩ := State.enabled_iff.mp he
  obtain ⟨t, ht⟩ := invariantStatesNeverStop s h
  have hx : exec s.latch.cmd (State.advance { s with turns := s.turns.tail }) = .next t :=
    (step_of_engineRuns ⟨he, rfl, hturn⟩).symm.trans ht
  have hdoes := exec_completes (s := State.advance { s with turns := s.turns.tail }) hp hx
  exact ⟨t, ht, ((exec_writesOnlyItsOwn hx).record hp (mt (op_eq_clrerr_iff _).mp hcmd)).1,
    hdoes.phase hp hcmd hent⟩

end Sys2Proof.Machine
end

section
/-! A command reads and writes no slot but its own (20_memory.md R73). -/

namespace Sys2Proof.Machine

open Sys2Proof.Claims

section wipe
variable {i : Instr} {d : Nat} {s : State}

/-- Wiping a slot leaves every other. -/
theorem wipe_getElem? {c : Nat} (h : c ≠ d) : (wipe d s).ctxs[c]? = s.ctxs[c]? := List.getElem?_set_ne h.symm

/-- Wiping a slot and writing another commute. -/
theorem wipe_setSlot {c : Nat} (h : c ≠ d) (x : Ctx) : (wipe d s).setSlot c x = wipe d (s.setSlot c x) := by
  simp only [State.setSlot, wipe, List.set_comm _ _ h.symm]

/-- An error is raised without the slots (60_exceptions.md R220). -/
theorem wipe_raise (e : ErrCode) (a : Access) : (wipe d s).raise e a = wipe d (s.raise e a) := by
  cases h : s.err with
  | false =>
    rw [State.raise_of_err_eq_false h, State.raise_of_err_eq_false (s := wipe d s) h]
    rfl
  | true =>
    rw [State.raise_of_err_eq_true h, State.raise_of_err_eq_true (s := wipe d s) h]
    rfl

/-- Entropy is taken without the slots (40_seedgen.md R101). -/
theorem wipe_takeEntropy : (wipe d s).takeEntropy = s.takeEntropy.map fun p => (p.1, wipe d p.2) := by
  cases h : s.entFull with
  | false => rw [State.takeEntropy_empty h, State.takeEntropy_empty (s := wipe d s) h, Option.map_none]
  | true =>
    rw [State.takeEntropy_full h, State.takeEntropy_full (s := wipe d s) h]
    rfl

/-- The checks of a command read its own slot alone (60_exceptions.md R213, R216). -/
theorem wipe_rejection (h : slotOf i ≠ some d) : rejection i (wipe d s) = rejection i s := by
  have hnctx : (wipe d s).nctx = s.nctx := List.length_set
  have hmissing : slotMissing i (wipe d s) = slotMissing i s := by rw [slotMissing, slotMissing, hnctx]
  have hlong : sliceTooLong i (wipe d s) = sliceTooLong i s := rfl
  have hkeys : unkeyed i (wipe d s) = unkeyed i s := rfl
  have htag : wrongTag i (wipe d s) = wrongTag i s := by
    rw [wrongTag, wrongTag]
    cases hc : slotOf i with
    | none => cases tagFor i <;> rfl
    | some c =>
      have hcd : c ≠ d := fun hcd => h (hcd ▸ hc)
      have htagOf : (wipe d s).tagOf c = s.tagOf c := congrArg (Option.map Ctx.tag) (wipe_getElem? hcd)
      cases tagFor i with
      | none => rfl
      | some t => exact congrArg (· != some t) htagOf
  simp only [rejection, hmissing, hlong, hkeys, htag]

/-- The issue of a command neither reads nor writes another slot. -/
theorem wipe_exec_idle (h : slotOf i ≠ some d) (hp : s.phase = .idle) :
    exec i (wipe d s) = mapNext (wipe d) (exec i s) := by
  rw [exec_eq_checkedIssue hp, exec_eq_checkedIssue (s := wipe d s) hp, checkedIssue, checkedIssue, wipe_rejection h]
  cases rejection i s with
  | some e => exact congrArg Host.Outcome.next (wipe_raise ..)
  | none =>
    simp only [mapNext]
    split_ifs <;> rfl

/-- A completion that names another slot neither reads nor writes the wiped one. -/
theorem wipe_completion (h : slotOf i ≠ some d) : completion i (wipe d s) = mapNext (wipe d) (completion i s) := by
  cases i with
  | loadiva | loadsecb | dual => rfl
  | newa c | newb c =>
    have hcd : c ≠ d := fun hcd => h (congrArg some hcd)
    exact withSlot_mapNext (wipe_getElem? hcd) fun _ =>
      congrArg (fun t => Host.Outcome.next (State.complete t)) (wipe_setSlot hcd _)
  | fina c | finb c | fin2b c | fin2a c =>
    have hcd : c ≠ d := fun hcd => h (congrArg some hcd)
    exact withSlot_mapNext (wipe_getElem? hcd) fun _ => rfl
  | writea c | writeb c =>
    have hcd : c ≠ d := fun hcd => h (congrArg some hcd)
    exact withSlot_mapNext (wipe_getElem? hcd) fun _ => withSlice_mapNext rfl rfl fun _ =>
      congrArg (fun t => Host.Outcome.next (State.complete t)) (wipe_setSlot hcd _)
  | clrerr => exact congrArg Host.Outcome.next (wipe_raise ..)
  | seeda =>
    simp only [completion, completeSeeda, wipe_takeEntropy]
    cases s.takeEntropy <;> rfl
  | seedb =>
    simp only [completion, completeSeedb, wipe_takeEntropy]
    cases s.takeEntropy with
    | none => rfl
    | some p =>
      simp only [Option.map_some]
      split_ifs <;> rfl

end wipe

/-- Settles O59: the checks of an issue and the completion both go to the command's own slot alone. -/
theorem slotsDoNotInterfere : Obligations.SlotsDoNotInterfere := by
  unfold Obligations.SlotsDoNotInterfere
  intro i d s h
  cases hp : s.phase with
  | idle => exact wipe_exec_idle h hp
  | exec =>
    rw [exec_eq_completion hp, exec_eq_completion (s := wipe d s) hp]
    exact wipe_completion h

end Sys2Proof.Machine
end
